-- ==== Sys2Proof/Word.lean ====
section
/-! DEFINITION. The word types of the device: bytes, and the three encoded formats of
`spec/30_encoding.md` (R110, R112, R114). -/

namespace Sys2Proof

/-- A byte: a native register, a VRAM cell, a palette index, a colour channel. -/
abbrev Byte := BitVec 8

/-- A host operation word, format HOP (R110). -/
abbrev HopWord := BitVec 64

/-- A signal word, format SIG (R112). -/
abbrev SigWord := BitVec 16

/-- A packed image of the mode selectors, format PMODE (R114). -/
abbrev PmodeWord := BitVec 32

end Sys2Proof
end

