-- ==== Sys2Proof/Machine/Types.lean ====
section
/-! DEFINITION. The plain data types the state is made of: the derived constants (PrecalcState,
R50), the sequencer's runtime registers (R21 to R30), the palette counters (R47), colours (R11),
event records (R122), operation results (R111) and implementation parameters (R7). -/

namespace Sys2Proof

/-- The selectors that have reserved values (R52, U3). -/
inductive Selector where
  | addrMode | pixelDiv | shiftMode | attrMode | textBlinkSel | cursorBlinkSel | dacMode
  deriving DecidableEq, Repr

/-- A change tag (R115): everything, one section, or one register. -/
inductive Tag where
  | all
  | wholeSection (sec : Byte)
  | register (sec idx : Byte)
  deriving DecidableEq, Repr, Inhabited

/-- Cell width, the two legal values of `P.char_width` (R50). -/
inductive CharWidth where
  | eight | nine
  deriving DecidableEq, Repr, Inhabited

/-- The seven breakpoints of one axis (R50). -/
structure Breakpoints (w : Nat) where
  displayStart : BitVec w
  displayEnd   : BitVec w
  blankStart   : BitVec w
  blankEnd     : BitVec w
  retraceStart : BitVec w
  retraceEnd   : BitVec w
  total        : BitVec w
  deriving DecidableEq, Repr, Inhabited

/-- PrecalcState fields derived by block B1 from SEQ 0x00 (R43, R172). -/
structure Clocking where
  char9         : Bool
  charWidth     : CharWidth
  pixelDiv      : BitVec 2
  screenDisable : Bool
  deriving DecidableEq, Repr, Inhabited

/-- PrecalcState fields derived by block B2 from SEQ 0x01..0x05 (R43, R172). -/
structure MemMode where
  paRead    : BitVec 2
  paWrite   : BitVec 2
  char16    : Bool
  fontBase0 : BitVec 16
  fontBase1 : BitVec 16
  deriving DecidableEq, Repr, Inhabited

/-- PrecalcState fields derived by block B5 from CRTC 0x1C..0x29 (R41, R172). -/
structure Geometry where
  charHeight        : BitVec 6
  rowSize           : BitVec 16
  startAddress      : BitVec 16
  bytePanning       : BitVec 2
  topwindowStart    : BitVec 12
  cursorLocation    : BitVec 16
  cursorStart       : BitVec 5
  cursorEnd         : BitVec 5
  cursorEnable      : Bool
  underlineLocation : BitVec 5
  addrMode          : BitVec 2
  wrapSel           : Bool
  scandouble        : Bool
  crtcNorender      : Bool
  timingProtect     : Bool
  deriving DecidableEq, Repr, Inhabited

/-- PrecalcState fields derived by block B6 from GFX 0x00 (R44, R172). -/
structure GfxMode where
  textMode  : Bool
  shiftMode : BitVec 2
  deriving DecidableEq, Repr, Inhabited

/-- PrecalcState fields derived by block B7 from ATTR 0x00..0x14 (R45, R172). -/
structure AttrCtl where
  palette16         : Vector Byte 16
  attrMode          : BitVec 2
  blinkEnable       : Bool
  monoAttr          : Bool
  lineGraphics      : Bool
  topwindowPanreset : Bool
  paletteDisabled   : Bool
  overscanIndex     : Byte
  colorPlaneEnable  : BitVec 4
  pixelShiftCount   : BitVec 4
  cursorBlinkSel    : BitVec 2
  textBlinkSel      : BitVec 2
  deriving DecidableEq, Repr, Inhabited

/-- PrecalcState fields derived by block B8 from DAC 0x00, 0x03..0x05 (R46, R172). -/
structure DacCtl where
  dacMask   : Byte
  dacMode   : BitVec 3
  dacLut    : Bool
  dacSwap   : Bool
  dacOff    : Bool
  monoMode  : BitVec 2
  lumMethod : Bool
  deriving DecidableEq, Repr, Inhabited

/-- PrecalcState (R50), grouped by the recompute block that derives each field (R172). A selector
field keeps its register bits, reserved codes included (R52). -/
structure Precalc where
  clk  : Clocking
  mem  : MemMode
  h    : Breakpoints 15
  v    : Breakpoints 12
  crtc : Geometry
  gfx  : GfxMode
  attr : AttrCtl
  dac  : DacCtl
  deriving DecidableEq, Repr, Inhabited

/-- A final colour (R11). -/
structure Rgba where
  r : Byte
  g : Byte
  b : Byte
  a : Byte
  deriving DecidableEq, Repr

/-- SequencerRuntimeState (R21, R24, R26, R27, R30). The fields of width `MEMADDR_BITS` are natural
numbers that every write reduces modulo `2^MEMADDR_BITS` (log 17). -/
structure Runtime where
  x            : BitVec 15
  y            : BitVec 12
  hblank       : Bool
  vblank       : Bool
  hretrace     : Bool
  vretrace     : Bool
  vblankFlag   : Bool
  frameCtr     : BitVec 6
  scanline     : BitVec 12
  rowscan      : BitVec 5
  dblPhase     : Bool
  charrow      : BitVec 12
  charcol      : BitVec 15
  memaddr      : Nat
  pixshift     : BitVec 4
  bytepan      : BitVec 2
  latStart     : Nat
  latPixshift  : BitVec 4
  latBytepan   : BitVec 2
  activePx     : BitVec 15
  divPhase     : BitVec 2
  fetchValid   : Bool
  fetchGroup   : BitVec 15
  shiftreg     : BitVec 32
  cellChar     : BitVec 16
  cellAttr     : BitVec 16
  cellFont     : Byte
  cellAddr     : Nat
  attrLatch    : Byte
  dacLatch     : BitVec 32
  dacCount     : BitVec 3
  lastColor    : BitVec 32
  lastEmit     : Option Rgba
  lightpenAddr : BitVec 32
  outX         : BitVec 15
  outY         : BitVec 12
  penX         : BitVec 15
  penY         : BitVec 12
  deriving DecidableEq, Repr

/-- DAC access counters (R47). -/
structure Dacs where
  widx : Byte
  wsub : BitVec 2
  ridx : Byte
  rsub : BitVec 2
  deriving DecidableEq, Repr

/-- Event records (R122). -/
inductive Event where
  /-- One call of `put_pixel` (R341). -/
  | pix (x : BitVec 15) (y : BitVec 12) (c : Rgba)
  /-- One call of the light-pen hook (R343). -/
  | pen (vramAddr : BitVec 32) (atPen : Bool)
  /-- One call of the frame-boundary callback (R204). -/
  | frame
  /-- A write to plane 2 or 3 that took effect (R88). -/
  | plane23 (plane off : Nat)
  /-- The log line on exceeding the retry bound (R206, R351). -/
  | diagRetry
  deriving DecidableEq, Repr

/-- What an operation returns (R111), and what a stage function queried by itself returns. -/
inductive Result where
  | none
  | applied (ok : Bool)
  | byte (v : Byte)
  /-- `(plane_mask, internal_offset)` of a plane-address strategy (R270). -/
  | planeAddr (mask : BitVec 4) (off : BitVec 32)
  /-- The plane offset that `Translate` gives (R276). -/
  | offset (off : Nat)
  /-- Whether the divider selects this tick as a reload tick (R241). -/
  | reload (now : Bool)
  deriving DecidableEq, Repr

/-- `ai.size`: the attribute sizes 4, 8 and 16 bits (R63). -/
inductive AttrSize where
  | bits4 | bits8 | bits16
  deriving DecidableEq, Repr

/-- AttributeInfo (R63). -/
structure AttrInfo where
  attr  : BitVec 16
  font  : Bool
  size  : AttrSize
  phase : Bool
  deriving DecidableEq, Repr

/-- What the attribute stage hands to the DAC stage: a value and how many of its bytes are to be
latched, low byte first (R290). -/
structure AttrValue where
  value  : BitVec 16
  nbytes : Nat
  deriving DecidableEq, Repr

/-- The in-tick transients (R63, R67), kept between stages only when a stage micro-operation is
issued by itself: the model's own field (log 4). A tick passes these values as locals. -/
structure Pipe where
  ai   : Option AttrInfo
  val  : Option AttrValue
  raw  : Option (BitVec 32)
  rgba : Option Rgba
  deriving DecidableEq, Repr

/-- Palette component width, the two values `DAC_BITS` may take (R7, R318). -/
inductive DacBits where
  | six | eight
  deriving DecidableEq, Repr

/-- Luminance weights `LUM_W`; a zero sum is no legal value (R332, U14). -/
structure LumWeights where
  r : Nat
  g : Nat
  b : Nat
  pos : 0 < r + g + b
  deriving DecidableEq, Repr

/-- A monochrome-monitor tint (R323). -/
structure Tint where
  r : Byte
  g : Byte
  b : Byte
  deriving DecidableEq, Repr

/-- The implementation parameters of R7. They are no state of the device (R70): no operation writes
them, RESET included (R380). The four hook flags say whether the hook is plugged in (R185, R277, R343,
R362); the clock-rate-override hook is consulted by no rule (R362). -/
structure Params where
  memaddrBits      : Nat
  planeSize        : Nat
  vramMask         : Nat
  vramLimit        : Option Nat
  dacBits          : DacBits
  undefinedRead    : Byte
  lumW             : LumWeights
  tintWhite        : Tint
  tintGreen        : Tint
  tintAmber        : Tint
  /-- The output-level table's leading entries; an entry past the list's end maps to itself, so the
  empty list is the identity table (R324). -/
  dacLevel         : List Byte
  monoForcedBg     : List Byte
  lineGfxLo        : BitVec 16
  lineGfxHi        : BitVec 16
  glyphStride      : Nat
  precalcExt        : Bool
  clockRateOverride : Bool
  addrWrapOverride  : Bool
  lightPen          : Bool
  deriving DecidableEq, Repr

end Sys2Proof
end

