-- ==== Sys2Proof/Config.lean ====
section
/-! DEFINITION. What an implementation fixes: the constants of R6, the default parameters of R7 and
the two consulted hooks of R185 and R277 as functions of which nothing is known. -/

namespace Sys2Proof.Config

/-- The byte an out-of-range VRAM read returns (R6, R84). -/
def floatingBus : Byte := 0xFF

/-- Most signal recomputations in one tick (R6, R206). -/
def retryBound : Nat := 3

/-- The defaults of R7 (log 7). -/
def defaultParams : Params where
  memaddrBits := 16
  planeSize := 0x10000
  vramMask := 0xFFFF
  vramLimit := none
  dacBits := .six
  undefinedRead := 0xFF
  lumW := ⟨299, 587, 114, by decide⟩
  tintWhite := ⟨255, 255, 255⟩
  tintGreen := ⟨0, 255, 0⟩
  tintAmber := ⟨255, 191, 0⟩
  dacLevel := []
  monoForcedBg := [0x00, 0x08, 0x80, 0x88]
  lineGfxLo := 0xC0
  lineGfxHi := 0xDF
  glyphStride := 32
  precalcExt := false
  clockRateOverride := false
  addrWrapOverride := false
  lightPen := false

/-- The precalc-extension hook (R185), a free value: given the number of operations started (its
chipset state changes only between operations), the change tag and `P`, the `P` it leaves. It is given
`Derive(REG)`, whatever the tag, so that `P = Ext(Derive(REG))` (R185, log 22). Consulted
only where `Params.precalcExt` is set (log 8). -/
opaque precalcExt : Nat → Tag → Precalc → Precalc

/-- The address-wrap-override hook (R277), a free value: given the number of operations started, the
CRTC address, the mode and the default offset, the offset to use. Consulted only where
`Params.addrWrapOverride` is set (log 8). -/
opaque addrWrapOverride : Nat → Nat → BitVec 2 → Nat → Nat

end Sys2Proof.Config
end

