-- ==== Sys2Proof/Syntax.lean ====
section
/-! DEFINITION. The operations: one constructor per row of `spec/opcode_table.json`, in the table's
order (host operations R111, DAC register rows R160 to R164, the clock pulse R201, boundary
micro-operations R116, render rows R113, stage variants R114). -/

namespace Sys2Proof

inductive Instr where
  -- format HOP
  | reset
  | wrreg (sec idx val : Byte)
  | rdreg (sec idx : Byte)
  | recalc (sec idx : Byte) (whole : Bool)
  | advance (n : BitVec 32)
  | waitvbl
  | vwrite (plane val : Byte) (off : BitVec 32)
  | vread (plane : Byte) (off : BitVec 32)
  | padec (write : Bool) (addr : BitVec 32)
  | penpos (x : BitVec 15) (y : BitVec 12)
  | dacmask (val : Byte)
  | dacridx (val : Byte)
  | dacwidx (val : Byte)
  | dacwdata (val : Byte)
  | dacrdata
  -- format CLOCK
  | tick
  -- format SIG, boundary micro-operations
  | blankHs
  | blankHe
  | blankVs
  | blankVe
  | retrHs
  | retrHe
  | retrVs
  | retrVe
  | htotal
  | vtotal
  -- format SIG, render handlers
  | rActive
  | rOverscanH
  | rOverscanV
  | rNop
  -- format PMODE, stage variants
  | decText (char9 lineGraphics char16 : Bool)
  | decPlanar
  | decPacked
  | decShift256
  | divFull
  | divHalf
  | divQuarter
  | xltByte (addr : BitVec 32)
  | xltWord (wrapSel : Bool) (addr : BitVec 32)
  | xltDword (addr : BitVec 32)
  | attr4
  | attr8
  | attr16
  | dac8
  | dac15
  | dac16
  | dac24
  | dac32
  | dacLut
  | dacSwap
  | monoColour
  | monoWhite
  | monoGreen
  | monoAmber
  | lumWeighted
  | lumUnweighted
  | dacLevel
  | dacOff
  | paPlanarR (addr : BitVec 32)
  | paPlanarW (addr : BitVec 32)
  | paChain4R (addr : BitVec 32)
  | paChain4W (addr : BitVec 32)
  | paOddevenR (wrapSel : Bool) (addr : BitVec 32)
  | paOddevenW (wrapSel : Bool) (addr : BitVec 32)
  | paLinearR (addr : BitVec 32)
  | paLinearW (addr : BitVec 32)
  | outPixel
  deriving DecidableEq, Repr

end Sys2Proof
end

