-- ==== Sys2Proof/WellFormed.lean ====
section
/-! DEFINITION. Which operations are in the form the decoder produces: the five DAC register accesses
with side effects have rows of their own (R111, R160 to R164), so a plain register access does not
name one of them. -/

namespace Sys2Proof

/-- Section number of the DAC registers (R40). -/
def dacSection : Byte := 5

/-- Register writes that have a row of their own: DAC 0x00..0x03 (R160 to R163). -/
def isDacWriteRow (sec idx : Byte) : Bool := sec == dacSection && decide (idx.toNat ≤ 3)

/-- The register read that has a row of its own: DAC 0x03 (R164). -/
def isDacReadRow (sec idx : Byte) : Bool := sec == dacSection && idx == 3

/-- Well-formedness: every operation but a WRREG or RDREG that spells a DAC row. -/
def Instr.wf : Instr → Bool
  | .wrreg sec idx _ => !isDacWriteRow sec idx
  | .rdreg sec idx => !isDacReadRow sec idx
  | _ => true

end Sys2Proof
end

