-- ==== Sys2Proof/Decode.lean ====
section
/-! DEFINITION. The decoder and the encoder of `spec/30_encoding.md`: format HOP (R110, R111), format
SIG (R112, R113, R116) and format PMODE (R114). One signal word or one PMODE image may select several
micro-operations at once (R114, R116), so an issued SIG or PMODE word says which unit of the device
looks at it (log 5). -/

namespace Sys2Proof

/-- The units that look at a signal word: the ten boundary tests of R116 and the render dispatch of
R113. -/
inductive SigUnit where
  | blankHs | blankHe | blankVs | blankVe | retrHs | retrHe | retrVs | retrVe | htotal | vtotal
  | render
  deriving DecidableEq, Repr

/-- The units that look at the PMODE image (R114). -/
inductive StageUnit where
  | decode | divider | translate | resolver | depth | lut | swap | mono | lum | level | off
  | paRead | paWrite | output
  deriving DecidableEq, Repr

/-- What can be presented to the device: a host operation word (R110), one poll of a caller inside
WAITVBL (R150), a clock pulse (R201), a signal word with its class for one unit (R112, R113), or a
PMODE image with the input of an address stage for one unit (R114). -/
inductive Issue where
  | hop (w : HopWord)
  | poll
  | clock
  | sig (u : SigUnit) (cls : BitVec 2) (w : SigWord)
  | pmode (u : StageUnit) (w : PmodeWord) (operand : BitVec 32)
  deriving DecidableEq, Repr

/-- Why the decoder gives no operation. -/
inductive Reject where
  /-- An operation code 0x0A..0xFF, an unmapped port: silently dropped (R119). -/
  | unmappedPort (op : Byte)
  /-- The word does not select the unit it is presented to: nothing runs (R114, R116). -/
  | notSelected
  /-- A poll by a caller that is not inside WAITVBL: there is nothing to re-check (R150). -/
  | noWait
  /-- A reserved selector value: no stage variant exists (R119, U3). -/
  | reserved (sel : Selector)
  deriving DecidableEq, Repr

/-! ### Format HOP -/

/-- Field `op` of a host operation word (R110). -/
def hopOp (w : HopWord) : Byte := w.extractLsb' 56 8

/-- Field `a` (R110). -/
def hopA (w : HopWord) : Byte := w.extractLsb' 48 8

/-- Field `b` (R110). -/
def hopB (w : HopWord) : Byte := w.extractLsb' 40 8

/-- Field `c` (R110). -/
def hopC (w : HopWord) : Byte := w.extractLsb' 32 8

/-- Field `d` (R110). -/
def hopD (w : HopWord) : BitVec 32 := w.extractLsb' 0 32

/-- A host operation word from its fields, most significant first (R110). -/
def hopWord (op a b c : Byte) (d : BitVec 32) : HopWord := op ++ a ++ b ++ c ++ d

/-- A register write word: the DAC rows R160 to R163 before the plain WRREG (R111). -/
def decodeWrite (a b c : Byte) : Instr :=
  if a = dacSection then
    if b = 0 then .dacmask c
    else if b = 1 then .dacridx c
    else if b = 2 then .dacwidx c
    else if b = 3 then .dacwdata c
    else .wrreg a b c
  else .wrreg a b c

/-- A register read word: the DAC row R164 before the plain RDREG (R111). -/
def decodeRead (a b : Byte) : Instr :=
  if a = dacSection ∧ b = 3 then .dacrdata else .rdreg a b

/-- The host operation a word stands for (R111); fields an operation does not use are ignored. -/
def decodeHop (w : HopWord) : Except Reject Instr :=
  match (hopOp w).toNat with
  | 0x00 => .ok .reset
  | 0x01 => .ok (decodeWrite (hopA w) (hopB w) (hopC w))
  | 0x02 => .ok (decodeRead (hopA w) (hopB w))
  | 0x03 => .ok (.recalc (hopA w) (hopB w) ((hopC w).getLsbD 0))
  | 0x04 => .ok (.advance (hopD w))
  | 0x05 => .ok .waitvbl
  | 0x06 => .ok (.vwrite (hopA w) (hopC w) (hopD w))
  | 0x07 => .ok (.vread (hopA w) (hopD w))
  | 0x08 => .ok (.padec ((hopA w).getLsbD 0) (hopD w))
  | 0x09 => .ok (.penpos ((hopD w).extractLsb' 0 15) ((hopD w).extractLsb' 16 12))
  | _ => .error (.unmappedPort (hopOp w))

/-! ### Format SIG -/

/-- The render handler of a class and signal word (R113). A class-0 word with both overscan bits, 6 and 14,
matches both rows R.OVERSCAN.H and R.OVERSCAN.V (R117), and the spec does not say which of the two runs: the
model answers R.OVERSCAN.H (DESIGN CHOICE, log 5; the two rows have one meaning, so no state shows it). -/
def decodeRender (cls : BitVec 2) (w : SigWord) : Instr :=
  if cls ≠ 0 then .rNop
  else if w &&& 0x2020 = 0x2020 then .rActive
  else if w.getLsbD 6 then .rOverscanH
  else if w.getLsbD 14 then .rOverscanV
  else .rNop

/-- The micro-operation if its bit is set in the word. -/
def ifSelected (sel : Bool) (i : Instr) : Except Reject Instr :=
  if sel then .ok i else .error .notSelected

/-- The micro-operation a signal word selects in one unit (R112, R113, R116). -/
def decodeSig (u : SigUnit) (cls : BitVec 2) (w : SigWord) : Except Reject Instr :=
  match u with
  | .htotal => ifSelected (w.getLsbD 0) .htotal
  | .retrHs => ifSelected (w.getLsbD 1) .retrHs
  | .retrHe => ifSelected (w.getLsbD 2) .retrHe
  | .blankHs => ifSelected (w.getLsbD 3) .blankHs
  | .blankHe => ifSelected (w.getLsbD 4) .blankHe
  | .vtotal => ifSelected (w.getLsbD 8) .vtotal
  | .retrVs => ifSelected (w.getLsbD 9) .retrVs
  | .retrVe => ifSelected (w.getLsbD 10) .retrVe
  | .blankVs => ifSelected (w.getLsbD 11) .blankVs
  | .blankVe => ifSelected (w.getLsbD 12) .blankVe
  | .render => .ok (decodeRender cls w)

/-! ### Format PMODE -/

/-- Bits 2..0: the decode variant (R114). -/
def decodeDecodeStage (w : PmodeWord) : Except Reject Instr :=
  if w.getLsbD 0 then .ok (.decText (w.getLsbD 23) (w.getLsbD 24) (w.getLsbD 25))
  else match (w.extractLsb' 1 2).toNat with
    | 0 => .ok .decPlanar
    | 1 => .ok .decPacked
    | 2 => .ok .decShift256
    | _ => .error (.reserved .shiftMode)

/-- Bits 4..3: the divider variant (R114). -/
def decodeDivider (w : PmodeWord) : Except Reject Instr :=
  match (w.extractLsb' 3 2).toNat with
  | 0 => .ok .divFull
  | 1 => .ok .divHalf
  | 2 => .ok .divQuarter
  | _ => .error (.reserved .pixelDiv)

/-- Bits 21..20: the translate variant, with `wrap_sel` in bit 22 (R114). -/
def decodeTranslate (w : PmodeWord) (addr : BitVec 32) : Except Reject Instr :=
  match (w.extractLsb' 20 2).toNat with
  | 0 => .ok (.xltByte addr)
  | 1 => .ok (.xltWord (w.getLsbD 22) addr)
  | 2 => .ok (.xltDword addr)
  | _ => .error (.reserved .addrMode)

/-- Bits 6..5: the attribute variant (R114). -/
def decodeAttribute (w : PmodeWord) : Except Reject Instr :=
  match (w.extractLsb' 5 2).toNat with
  | 0 => .ok .attr4
  | 1 => .ok .attr8
  | 2 => .ok .attr16
  | _ => .error (.reserved .attrMode)

/-- Bits 9..7: the DAC depth variant (R114). -/
def decodeDepth (w : PmodeWord) : Except Reject Instr :=
  match (w.extractLsb' 7 3).toNat with
  | 0 => .ok .dac8
  | 1 => .ok .dac15
  | 2 => .ok .dac16
  | 3 => .ok .dac24
  | 4 => .ok .dac32
  | _ => .error (.reserved .dacMode)

/-- Bits 13..12: the monochrome variant (R114). -/
def decodeMono (w : PmodeWord) : Instr :=
  match (w.extractLsb' 12 2).toNat with
  | 0 => .monoColour
  | 1 => .monoWhite
  | 2 => .monoGreen
  | _ => .monoAmber

/-- Bits 17..16: the plane-address variant of direction read (R114). -/
def decodePaRead (w : PmodeWord) (addr : BitVec 32) : Instr :=
  match (w.extractLsb' 16 2).toNat with
  | 0 => .paPlanarR addr
  | 1 => .paChain4R addr
  | 2 => .paOddevenR (w.getLsbD 22) addr
  | _ => .paLinearR addr

/-- Bits 19..18: the plane-address variant of direction write (R114). -/
def decodePaWrite (w : PmodeWord) (addr : BitVec 32) : Instr :=
  match (w.extractLsb' 18 2).toNat with
  | 0 => .paPlanarW addr
  | 1 => .paChain4W addr
  | 2 => .paOddevenW (w.getLsbD 22) addr
  | _ => .paLinearW addr

/-- The stage variant a PMODE image selects in one unit (R114). -/
def decodePmode (u : StageUnit) (w : PmodeWord) (operand : BitVec 32) : Except Reject Instr :=
  match u with
  | .decode => decodeDecodeStage w
  | .divider => decodeDivider w
  | .translate => decodeTranslate w operand
  | .resolver => decodeAttribute w
  | .depth => decodeDepth w
  | .lut => ifSelected (w.getLsbD 10) .dacLut
  | .swap => ifSelected (w.getLsbD 11) .dacSwap
  | .mono => .ok (decodeMono w)
  | .lum => .ok (if w.getLsbD 14 then .lumUnweighted else .lumWeighted)
  | .level => .ok .dacLevel
  | .off => ifSelected (w.getLsbD 15) .dacOff
  | .paRead => .ok (decodePaRead w operand)
  | .paWrite => .ok (decodePaWrite w operand)
  | .output => .ok .outPixel

/-- The operation an issued word stands for, or why there is none. -/
def decode : Issue → Except Reject Instr
  | .hop w => decodeHop w
  | .poll => .error .noWait
  | .clock => .ok .tick
  | .sig u cls w => decodeSig u cls w
  | .pmode u w operand => decodePmode u w operand

/-! ### The encoder -/

/-- A PMODE image with one field set. -/
def pmodeField (value lo : Nat) : PmodeWord := BitVec.ofNat 32 (value <<< lo)

/-- A one-bit PMODE field. -/
def pmodeBit (b : Bool) (lo : Nat) : PmodeWord := pmodeField b.toNat lo

/-- The word of an operation, from the encoding tables of `spec/30_encoding.md`; unused fields are
written as 0 (R110). -/
def encode : Instr → Issue
  | .reset => .hop (hopWord 0x00 0 0 0 0)
  | .wrreg sec idx val => .hop (hopWord 0x01 sec idx val 0)
  | .rdreg sec idx => .hop (hopWord 0x02 sec idx 0 0)
  | .recalc sec idx whole => .hop (hopWord 0x03 sec idx (BitVec.ofNat 8 whole.toNat) 0)
  | .advance n => .hop (hopWord 0x04 0 0 0 n)
  | .waitvbl => .hop (hopWord 0x05 0 0 0 0)
  | .vwrite plane val off => .hop (hopWord 0x06 plane 0 val off)
  | .vread plane off => .hop (hopWord 0x07 plane 0 0 off)
  | .padec write addr => .hop (hopWord 0x08 (BitVec.ofNat 8 write.toNat) 0 0 addr)
  | .penpos x y => .hop (hopWord 0x09 0 0 0 ((0#4) ++ y ++ (0#1) ++ x))
  | .dacmask val => .hop (hopWord 0x01 dacSection 0 val 0)
  | .dacridx val => .hop (hopWord 0x01 dacSection 1 val 0)
  | .dacwidx val => .hop (hopWord 0x01 dacSection 2 val 0)
  | .dacwdata val => .hop (hopWord 0x01 dacSection 3 val 0)
  | .dacrdata => .hop (hopWord 0x02 dacSection 3 0 0)
  | .tick => .clock
  | .blankHs => .sig .blankHs 0 0x0008
  | .blankHe => .sig .blankHe 0 0x0010
  | .blankVs => .sig .blankVs 0 0x0800
  | .blankVe => .sig .blankVe 0 0x1000
  | .retrHs => .sig .retrHs 0 0x0002
  | .retrHe => .sig .retrHe 0 0x0004
  | .retrVs => .sig .retrVs 0 0x0200
  | .retrVe => .sig .retrVe 0 0x0400
  | .htotal => .sig .htotal 0 0x0001
  | .vtotal => .sig .vtotal 0 0x0100
  | .rActive => .sig .render 0 0x2020
  | .rOverscanH => .sig .render 0 0x0040
  | .rOverscanV => .sig .render 0 0x4000
  | .rNop => .sig .render 0 0x0000
  | .decText c9 lg c16 =>
      .pmode .decode (pmodeField 1 0 ||| pmodeBit c9 23 ||| pmodeBit lg 24 ||| pmodeBit c16 25) 0
  | .decPlanar => .pmode .decode (pmodeField 0 1) 0
  | .decPacked => .pmode .decode (pmodeField 1 1) 0
  | .decShift256 => .pmode .decode (pmodeField 2 1) 0
  | .divFull => .pmode .divider (pmodeField 0 3) 0
  | .divHalf => .pmode .divider (pmodeField 1 3) 0
  | .divQuarter => .pmode .divider (pmodeField 2 3) 0
  | .xltByte addr => .pmode .translate (pmodeField 0 20) addr
  | .xltWord wrap addr => .pmode .translate (pmodeField 1 20 ||| pmodeBit wrap 22) addr
  | .xltDword addr => .pmode .translate (pmodeField 2 20) addr
  | .attr4 => .pmode .resolver (pmodeField 0 5) 0
  | .attr8 => .pmode .resolver (pmodeField 1 5) 0
  | .attr16 => .pmode .resolver (pmodeField 2 5) 0
  | .dac8 => .pmode .depth (pmodeField 0 7) 0
  | .dac15 => .pmode .depth (pmodeField 1 7) 0
  | .dac16 => .pmode .depth (pmodeField 2 7) 0
  | .dac24 => .pmode .depth (pmodeField 3 7) 0
  | .dac32 => .pmode .depth (pmodeField 4 7) 0
  | .dacLut => .pmode .lut (pmodeField 1 10) 0
  | .dacSwap => .pmode .swap (pmodeField 1 11) 0
  | .monoColour => .pmode .mono (pmodeField 0 12) 0
  | .monoWhite => .pmode .mono (pmodeField 1 12) 0
  | .monoGreen => .pmode .mono (pmodeField 2 12) 0
  | .monoAmber => .pmode .mono (pmodeField 3 12) 0
  | .lumWeighted => .pmode .lum (pmodeField 0 14) 0
  | .lumUnweighted => .pmode .lum (pmodeField 1 14) 0
  | .dacLevel => .pmode .level 0 0
  | .dacOff => .pmode .off (pmodeField 1 15) 0
  | .paPlanarR addr => .pmode .paRead (pmodeField 0 16) addr
  | .paPlanarW addr => .pmode .paWrite (pmodeField 0 18) addr
  | .paChain4R addr => .pmode .paRead (pmodeField 1 16) addr
  | .paChain4W addr => .pmode .paWrite (pmodeField 1 18) addr
  | .paOddevenR wrap addr => .pmode .paRead (pmodeField 2 16 ||| pmodeBit wrap 22) addr
  | .paOddevenW wrap addr => .pmode .paWrite (pmodeField 2 18 ||| pmodeBit wrap 22) addr
  | .paLinearR addr => .pmode .paRead (pmodeField 3 16) addr
  | .paLinearW addr => .pmode .paWrite (pmodeField 3 18) addr
  | .outPixel => .pmode .output 0 0

/-! ### A word of the opcode table -/

/-- The first unit of R116's fixed order that a signal word selects, else the render dispatch. -/
def firstSigUnit (w : SigWord) : SigUnit :=
  if w.getLsbD 3 then .blankHs
  else if w.getLsbD 4 then .blankHe
  else if w.getLsbD 11 then .blankVs
  else if w.getLsbD 12 then .blankVe
  else if w.getLsbD 1 then .retrHs
  else if w.getLsbD 2 then .retrHe
  else if w.getLsbD 9 then .retrVs
  else if w.getLsbD 10 then .retrVe
  else if w.getLsbD 0 then .htotal
  else if w.getLsbD 8 then .vtotal
  else .render

/-- The first unit, in the opcode table's order, whose selector in the image is not the all-zero
default; the decode unit when every selector is (log 5). -/
def firstStageUnit (w : PmodeWord) : StageUnit :=
  if w.extractLsb' 0 3 ≠ 0 then .decode
  else if w.extractLsb' 3 2 ≠ 0 then .divider
  else if w.extractLsb' 20 2 ≠ 0 then .translate
  else if w.extractLsb' 5 2 ≠ 0 then .resolver
  else if w.extractLsb' 7 3 ≠ 0 then .depth
  else if w.getLsbD 10 then .lut
  else if w.getLsbD 11 then .swap
  else if w.extractLsb' 12 2 ≠ 0 then .mono
  else if w.getLsbD 14 then .lum
  else if w.getLsbD 15 then .off
  else if w.extractLsb' 16 2 ≠ 0 then .paRead
  else if w.extractLsb' 18 2 ≠ 0 then .paWrite
  else .decode

/-- The issue that presents a bare table word: its format is told by its length (CLOCK has no bits,
SIG 16, PMODE 32, HOP 64), its unit is the first one it selects (log 5). -/
def tableIssue (nbits w : Nat) : Issue :=
  if nbits ≤ 8 ∧ w = 0 then .clock
  else if nbits ≤ 16 then .sig (firstSigUnit (BitVec.ofNat 16 w)) 0 (BitVec.ofNat 16 w)
  else if nbits ≤ 32 then .pmode (firstStageUnit (BitVec.ofNat 32 w)) (BitVec.ofNat 32 w) 0
  else .hop (BitVec.ofNat 64 w)

/-- The instruction the decoder reads from a bare table word. -/
def decodeTableWord (nbits w : Nat) : Option Instr := (decode (tableIssue nbits w)).toOption

end Sys2Proof
end

