-- ==== Sys2Proof/Machine/Store.lean ====
section
/-! DEFINITION. The sparse byte store that holds VRAM, the register file and the palette: a list of
(address, byte) cells in one canonical form. An unlisted address reads as 0 (log 6). -/

namespace Sys2Proof.Machine

/-- Byte cells by address, addresses strictly rising, no cell equal to the unlisted value. -/
abbrev Memory := List Host.Cell

/-- What an unlisted address reads as: 0. For the register file and the palette that is the reset
value (R40, R57); for VRAM it is the default initial contents (R7, U6, log 6). -/
def Memory.unlisted : Byte := 0

/-- The byte at an address. -/
def Memory.read : Memory → Nat → Byte
  | [], _ => Memory.unlisted
  | (k, v) :: rest, a => if a = k then v else Memory.read rest a

/-- Store a byte at an address, keeping the canonical form. -/
def Memory.write : Memory → Nat → Byte → Memory
  | [], a, v => if v = Memory.unlisted then [] else [(a, v)]
  | (k, w) :: rest, a, v =>
    if a < k then
      if v = Memory.unlisted then (k, w) :: rest else (a, v) :: (k, w) :: rest
    else if a = k then
      if v = Memory.unlisted then rest else (a, v) :: rest
    else (k, w) :: Memory.write rest a v

/-- Every address listed is above a bound, addresses rise strictly, and no cell holds the unlisted
value. -/
def Memory.wfAbove : Option Nat → Memory → Bool
  | _, [] => true
  | lo, (k, v) :: rest =>
    (match lo with | none => true | some b => decide (b < k)) && v != Memory.unlisted &&
      Memory.wfAbove (some k) rest

/-- The canonical form. -/
def Memory.wf (m : Memory) : Bool := Memory.wfAbove none m

end Sys2Proof.Machine
end

