-- ==== Sys2Proof/Machine/State.lean ====
section
/-! DEFINITION. The whole state of the device and of the schedule that drives it, the reasons a step
can stop, and the state after RESET (R75, R380). -/

namespace Sys2Proof.Machine

/-- Faults. There are none: "Nothing in this hardware has the treatment `fault`: there is no trap
mechanism" (93_implementation_defined.md part 1, R350, R357). An empty type, so that no step can be
proved to fault; safe. -/
inductive Fault
  deriving DecidableEq, Repr

/-- Why the model gives a step no next state. -/
inductive Refusal where
  /-- An instruction whose meaning is not written: raised by `exec`'s refused arms only; safe. -/
  | notModelled (mnemonic : String)
  /-- A reserved selector value is needed (R52, U3: "a tick or PADEC that needs the selector has no
  meaning", treatment `refuse`): raised by the stages that read the selector, and by `step` for an
  issued PMODE image that holds one; safe. -/
  | reservedSelector (sel : Selector)
  deriving DecidableEq, Repr

/-- One turn of an actor in the order of the lock (R95, U17). -/
structure Request where
  actor : Nat
  issue : Issue
  deriving DecidableEq, Repr

structure State where
  /-- The implementation parameters (R7): the model's field, written by nothing (log 7). -/
  par     : Params
  /-- RegisterFile (R40), keyed by `256 * section + index`. -/
  reg     : Memory
  /-- PrecalcState (R50). -/
  P       : Precalc
  /-- `HTAB` (R56): `none` while every entry is 0, else the breakpoints it was last built from (log 10). -/
  htab    : Option (Breakpoints 15)
  /-- `VTAB` (R56), likewise. -/
  vtab    : Option (Breakpoints 12)
  /-- SequencerRuntimeState (R30). -/
  S       : Runtime
  /-- DAC palette (R57), keyed by `4 * index + component`, components r, g, b = 0, 1, 2. -/
  pal     : Memory
  /-- DAC access counters (R47). -/
  dacs    : Dacs
  /-- VRAM (R80), keyed by `4 * offset + plane` (log 6). -/
  vram    : Memory
  /-- Every event emitted so far (R122), newest first (log 13). -/
  events  : List Event
  /-- The result of the latest operation (R111, log 14). -/
  result  : Result
  /-- Stage values of micro-operations issued alone (R63, R67, log 4). -/
  pipe    : Pipe
  /-- The turns still to be taken, in lock order (R95, U17, log 1). -/
  queue   : List Request
  /-- The actor that holds the lock (R95, log 2). -/
  actor   : Nat
  /-- The actors inside WAITVBL (R150, log 2). -/
  waiters : List Nat
  /-- Operations started, the argument of the hooks (log 8). -/
  epoch   : Nat
  deriving DecidableEq, Repr

/-- SequencerRuntimeState after RESET (R30, R75). -/
def Runtime.reset : Runtime where
  x := 0
  y := 0
  hblank := false
  vblank := false
  hretrace := false
  vretrace := false
  vblankFlag := false
  frameCtr := 0
  scanline := 0
  rowscan := 0
  dblPhase := false
  charrow := 0
  charcol := 0
  memaddr := 0
  pixshift := 0
  bytepan := 0
  latStart := 0
  latPixshift := 0
  latBytepan := 0
  activePx := 0
  divPhase := 0
  fetchValid := false
  fetchGroup := 0
  shiftreg := 0
  cellChar := 0
  cellAttr := 0
  cellFont := 0
  cellAddr := 0
  attrLatch := 0
  dacLatch := 0
  dacCount := 0
  lastColor := 0
  lastEmit := none
  lightpenAddr := 0
  outX := 0
  outY := 0
  penX := 0
  penY := 0

/-- Breakpoints after RESET: all 0 (R75). -/
def Breakpoints.reset (w : Nat) : Breakpoints w := ⟨0, 0, 0, 0, 0, 0, 0⟩

/-- PrecalcState after RESET: "0 for every field except `P.char_width = 8`, `P.char_height = 1`,
`P.cursor_enable = 1`" (R50). -/
def Precalc.reset : Precalc where
  clk := { char9 := false, charWidth := .eight, pixelDiv := 0, screenDisable := false }
  mem := { paRead := 0, paWrite := 0, char16 := false, fontBase0 := 0, fontBase1 := 0 }
  h := Breakpoints.reset 15
  v := Breakpoints.reset 12
  crtc := { charHeight := 1, rowSize := 0, startAddress := 0, bytePanning := 0, topwindowStart := 0,
            cursorLocation := 0, cursorStart := 0, cursorEnd := 0, cursorEnable := true,
            underlineLocation := 0, addrMode := 0, wrapSel := false, scandouble := false,
            crtcNorender := false, timingProtect := false }
  gfx := { textMode := false, shiftMode := 0 }
  attr := { palette16 := Vector.replicate 16 0, attrMode := 0, blinkEnable := false, monoAttr := false,
            lineGraphics := false, topwindowPanreset := false, paletteDisabled := false,
            overscanIndex := 0, colorPlaneEnable := 0, pixelShiftCount := 0, cursorBlinkSel := 0,
            textBlinkSel := 0 }
  dac := { dacMask := 0, dacMode := 0, dacLut := false, dacSwap := false, dacOff := false, monoMode := 0,
           lumMethod := false }

/-- No stage value in flight. -/
def Pipe.empty : Pipe := ⟨none, none, none, none⟩

/-- The device right after RESET, with the default parameters, the default VRAM contents and nothing
requested (R75, R380, R7). -/
def State.reset : State where
  par := Config.defaultParams
  reg := []
  P := Precalc.reset
  htab := none
  vtab := none
  S := Runtime.reset
  pal := []
  dacs := ⟨0, 0, 0, 0⟩
  vram := []
  events := []
  result := .none
  pipe := Pipe.empty
  queue := []
  actor := 0
  waiters := []
  epoch := 0

/-! ### Field updates -/

def State.setReg (s : State) (m : Memory) : State := { s with reg := m }
def State.setP (s : State) (p : Precalc) : State := { s with P := p }
def State.setTables (s : State) (h : Option (Breakpoints 15)) (v : Option (Breakpoints 12)) : State :=
  { s with htab := h, vtab := v }
def State.setS (s : State) (r : Runtime) : State := { s with S := r }
def State.setPal (s : State) (m : Memory) : State := { s with pal := m }
def State.setDacs (s : State) (d : Dacs) : State := { s with dacs := d }
def State.setVram (s : State) (m : Memory) : State := { s with vram := m }
def State.setResult (s : State) (r : Result) : State := { s with result := r }
def State.setPipe (s : State) (p : Pipe) : State := { s with pipe := p }
def State.setWaiters (s : State) (w : List Nat) : State := { s with waiters := w }
/-- Append an event to the event list (R122). -/
def State.emit (s : State) (e : Event) : State := { s with events := e :: s.events }
/-- Start a turn: the actor takes the lock, the rest of the schedule stays (R95). The number of operations started
steps, so that a plugged-in hook may answer otherwise than in the turn before, also where R147, R170 and R175 call two
turns the same as one (DEDUCED, log 34). -/
def State.takeTurn (s : State) (a : Nat) (rest : List Request) : State :=
  { s with actor := a, queue := rest, result := .none, epoch := s.epoch + 1 }

end Sys2Proof.Machine
end

