-- ==== Sys2Proof/Machine/Operands.lean ====
section
/-! DEFINITION. Operand forms: register addresses and their fields (R40 to R46), change tags (R115),
selector values with their reserved codes (R52, R114), signal bits (R112), the PMODE image (R114). -/

namespace Sys2Proof.Machine

/-- A stage's answer: a value, or the refusal of a reserved selector (R52, U3). -/
abbrev Res (α : Type) := Except Refusal α

/-- What an arm of `exec` answers. -/
abbrev Out := Host.Outcome State Fault Refusal

/-- An answer as an outcome of `exec`. -/
def outcome : Res State → Out
  | .ok s => .next s
  | .error r => .refused r

/-! ### Registers -/

/-- Section numbers (R40). -/
def secCrtc : Byte := 1
def secSeq : Byte := 2
def secGfx : Byte := 3
def secAttr : Byte := 4
def secDac : Byte := 5

/-- Where a register is kept in the register file store. -/
def regKey (sec idx : Byte) : Nat := 256 * sec.toNat + idx.toNat

/-- `REG[sec][idx]` (R40). -/
def regAt (m : Memory) (sec idx : Byte) : Byte := m.read (regKey sec idx)

/-- `ValidIndex(section, index)` (R40). -/
def validIndex (sec idx : Byte) : Bool :=
  if sec = secCrtc then decide (idx.toNat ≤ 0x29)
  else if sec = secSeq then decide (idx.toNat ≤ 0x05)
  else if sec = secGfx then decide (idx.toNat ≤ 0x00)
  else if sec = secAttr then decide (idx.toNat ≤ 0x14)
  else if sec = secDac then decide (idx.toNat ≤ 0x05)
  else false

/-- `2^DAC_BITS - 1` (R142). -/
def dacMaskOf : DacBits → Byte
  | .six => 0x3F
  | .eight => 0xFF

/-- `DefinedMask(sec, idx)` (R142), for the valid registers. -/
def definedMask (bits : DacBits) (sec idx : Byte) : Byte :=
  if sec = secCrtc then
    if idx.toNat ≤ 0x1B then (if idx.getLsbD 0 then 0x0F else 0xFF)
    else match idx.toNat with
      | 0x1C => 0x1F
      | 0x21 => 0x03
      | 0x23 => 0x0F
      | 0x26 => 0x3F
      | 0x27 => 0x1F
      | 0x28 => 0x1F
      | 0x29 => 0x9F
      | _ => 0xFF
  else if sec = secSeq then
    match idx.toNat with
    | 0x00 => 0x27
    | 0x01 => 0x1F
    | _ => 0xFF
  else if sec = secGfx then 0x07
  else if sec = secAttr then
    match idx.toNat with
    | 0x10 => 0x7F
    | 0x12 => 0x0F
    | 0x13 => 0x0F
    | 0x14 => 0x0F
    | _ => 0xFF
  else
    match idx.toNat with
    | 0x03 => dacMaskOf bits
    | 0x04 => 0x9F
    | 0x05 => 0x07
    | _ => 0xFF

/-- A protected field: CRTC 0x00..0x1B (R42). -/
def isProtected (sec idx : Byte) : Bool := sec == secCrtc && decide (idx.toNat ≤ 0x1B)

/-- The write-protection guard, bit 7 of CRTC_MODE in the register file (R42). -/
def timingGuard (m : Memory) : Bool := (regAt m secCrtc 0x29).getLsbD 7

/-- `r12(lo)`: a 12-bit field of two registers, low byte first (R50). -/
def reg12 (m : Memory) (sec lo : Byte) : BitVec 12 :=
  (regAt m sec (lo + 1)).extractLsb' 0 4 ++ regAt m sec lo

/-- `r16(lo)`: a 16-bit field of two registers, low byte first (R50). -/
def reg16 (m : Memory) (sec lo : Byte) : BitVec 16 := regAt m sec (lo + 1) ++ regAt m sec lo

/-! ### Change tags -/

/-- `Affects(tag, set)`, the set being the registers of one section that satisfy a test (R172). -/
def Tag.affects (t : Tag) (sec : Byte) (test : Byte → Bool) : Bool :=
  match t with
  | .all => true
  | .wholeSection s => s == sec
  | .register s i => s == sec && test i

/-- Registers `lo..hi` of a section. -/
def between (lo hi : Nat) (i : Byte) : Bool := decide (lo ≤ i.toNat) && decide (i.toNat ≤ hi)

/-- The change tag of a RECALC (R115, R145); none where it is dropped or names no register. -/
def recalcTag (sec idx : Byte) (whole : Bool) : Option Tag :=
  if sec = 0 then some .all
  else if sec.toNat > 5 then none
  else if whole then some (.wholeSection sec)
  else if validIndex sec idx then some (.register sec idx)
  else none

/-! ### Selectors -/

/-- CRTC address modes (R50, R276). -/
inductive AddrMode where
  | byte | word | dword
  deriving DecidableEq, Repr

/-- Shift-register modes (R50, R249). -/
inductive ShiftMode where
  | planar | packed | shift256
  deriving DecidableEq, Repr

/-- Attribute modes (R50, R290). -/
inductive AttrMode where
  | attr4 | attr8 | attr16
  deriving DecidableEq, Repr

/-- DAC colour depths (R50, R312). -/
inductive DacMode where
  | m8 | m15 | m16 | m24 | m32
  deriving DecidableEq, Repr

/-- Monochrome-monitor modes (R50, R323). -/
inductive MonoMode where
  | colour | white | green | amber
  deriving DecidableEq, Repr

/-- Plane-address strategies (R50, R270). -/
inductive PaMode where
  | planar | chain4 | oddeven | linear
  deriving DecidableEq, Repr

/-- The refusal of a reserved selector (R52, U3). -/
def reserved {α : Type} (sel : Selector) : Res α := .error (.reservedSelector sel)

/-- `P.addr_mode`; 3 is reserved (R50, R52). -/
def addrModeOf (v : BitVec 2) : Res AddrMode :=
  match v.toNat with
  | 0 => .ok .byte
  | 1 => .ok .word
  | 2 => .ok .dword
  | _ => reserved .addrMode

/-- `P.shift_mode`; 3 is reserved (R52, R257). -/
def shiftModeOf (v : BitVec 2) : Res ShiftMode :=
  match v.toNat with
  | 0 => .ok .planar
  | 1 => .ok .packed
  | 2 => .ok .shift256
  | _ => reserved .shiftMode

/-- `P.attr_mode`; 3 is reserved (R52, R290). -/
def attrModeOf (v : BitVec 2) : Res AttrMode :=
  match v.toNat with
  | 0 => .ok .attr4
  | 1 => .ok .attr8
  | 2 => .ok .attr16
  | _ => reserved .attrMode

/-- `P.dac_mode`; 5..7 are reserved (R52, R312). -/
def dacModeOf (v : BitVec 3) : Res DacMode :=
  match v.toNat with
  | 0 => .ok .m8
  | 1 => .ok .m15
  | 2 => .ok .m16
  | 3 => .ok .m24
  | 4 => .ok .m32
  | _ => reserved .dacMode

/-- `2^P.pixel_div`; 3 is reserved (R52, R241). -/
def divisorOf (v : BitVec 2) : Res Nat :=
  match v.toNat with
  | 0 => .ok 1
  | 1 => .ok 2
  | 2 => .ok 4
  | _ => reserved .pixelDiv

/-- `P.mono_mode`; all four values are defined (R50). -/
def monoModeOf (v : BitVec 2) : MonoMode :=
  match v.toNat with
  | 0 => .colour
  | 1 => .white
  | 2 => .green
  | _ => .amber

/-- `P.pa_read` and `P.pa_write`; all four values are defined (R50). -/
def paModeOf (v : BitVec 2) : PaMode :=
  match v.toNat with
  | 0 => .planar
  | 1 => .chain4
  | 2 => .oddeven
  | _ => .linear

/-- `P.char_width` as a number (R50). -/
def cellDots : CharWidth → Nat
  | .eight => 8
  | .nine => 9

/-- `ai.size` of an attribute mode (R63, R242). -/
def attrSizeOf : AttrMode → AttrSize
  | .attr4 => .bits4
  | .attr8 => .bits8
  | .attr16 => .bits16

/-- `Need(P.dac_mode)`: bytes per pixel (R311). -/
def need : DacMode → Nat
  | .m8 => 1
  | .m15 => 2
  | .m16 => 2
  | .m24 => 3
  | .m32 => 4

/-- One-bit field of the PMODE image at bit `lo`. -/
def flagAt (b : Bool) (lo : Nat) : PmodeWord := BitVec.ofNat 32 (b.toNat <<< lo)

/-- Multi-bit field of the PMODE image at bit `lo`. -/
def fieldAt {w : Nat} (v : BitVec w) (lo : Nat) : PmodeWord := BitVec.ofNat 32 (v.toNat <<< lo)

/-- PMODE, the packed image of PrecalcState's selector fields (R114). -/
def pmode (p : Precalc) : PmodeWord :=
  flagAt p.gfx.textMode 0 ||| fieldAt p.gfx.shiftMode 1 ||| fieldAt p.clk.pixelDiv 3 |||
  fieldAt p.attr.attrMode 5 ||| fieldAt p.dac.dacMode 7 ||| flagAt p.dac.dacLut 10 |||
  flagAt p.dac.dacSwap 11 ||| fieldAt p.dac.monoMode 12 ||| flagAt p.dac.lumMethod 14 |||
  flagAt p.dac.dacOff 15 ||| fieldAt p.mem.paRead 16 ||| fieldAt p.mem.paWrite 18 |||
  fieldAt p.crtc.addrMode 20 ||| flagAt p.crtc.wrapSel 22 ||| flagAt p.clk.char9 23 |||
  flagAt p.attr.lineGraphics 24 ||| flagAt p.mem.char16 25 ||| flagAt p.crtc.scandouble 26 |||
  flagAt p.attr.blinkEnable 27 ||| flagAt p.attr.monoAttr 28 ||| flagAt p.clk.screenDisable 29 |||
  flagAt p.attr.paletteDisabled 30 ||| flagAt p.crtc.crtcNorender 31

/-! ### Signal bits (R112) -/

def sigHTotal : Nat := 0
def sigHRetraceStart : Nat := 1
def sigHRetraceEnd : Nat := 2
def sigHBlankStart : Nat := 3
def sigHBlankEnd : Nat := 4
def sigHActive : Nat := 5
def sigHOverscan : Nat := 6
def sigVTotal : Nat := 8
def sigVRetraceStart : Nat := 9
def sigVRetraceEnd : Nat := 10
def sigVBlankStart : Nat := 11
def sigVBlankEnd : Nat := 12
def sigVActive : Nat := 13
def sigVOverscan : Nat := 14

end Sys2Proof.Machine
end

