-- ==== Sys2Proof/Machine/Flags.lean ====
section
/-! DEFINITION. Flags: the four sticky latches (R24, R203, R204), the blanking state (R25), the
vertical-blank flag and the blink phases (R26, R27). -/

namespace Sys2Proof.Machine

/-- BLANK.HS: the horizontal blank latch is set (R203). -/
def hBlankStart (s : State) : State := s.setS { s.S with hblank := true }

/-- BLANK.HE: the horizontal blank latch is cleared (R203). -/
def hBlankEnd (s : State) : State := s.setS { s.S with hblank := false }

/-- BLANK.VS: the vertical blank latch is set (R203). -/
def vBlankStart (s : State) : State := s.setS { s.S with vblank := true }

/-- BLANK.VE: the vertical blank latch is cleared (R203). -/
def vBlankEnd (s : State) : State := s.setS { s.S with vblank := false }

/-- RETR.HS: the horizontal retrace latch is set (R204). -/
def hRetraceStart (s : State) : State := s.setS { s.S with hretrace := true }

/-- RETR.HE: the horizontal retrace latch is cleared (R204). -/
def hRetraceEnd (s : State) : State := s.setS { s.S with hretrace := false }

/-- RETR.VS: on the 0 -> 1 edge the vertical retrace latch and the vertical-blank flag are set, the
frame counter steps and the frame-boundary event is sent; else nothing (R204). -/
def vRetraceStart (s : State) : State :=
  if s.S.vretrace then s
  else
    (s.setS { s.S with vretrace := true, vblankFlag := true, frameCtr := s.S.frameCtr + 1 }).emit .frame

/-- RETR.VE: the vertical retrace latch is cleared (R204). -/
def vRetraceEnd (s : State) : State := s.setS { s.S with vretrace := false }

/-- Run an operation if a signal bit selects it (R116). -/
def onBit (sig : SigWord) (bit : Nat) (op : State → State) (s : State) : State :=
  if sig.getLsbD bit then op s else s

/-- `ResolveBlank(sig)` (R203): horizontal before vertical, start before end. -/
def resolveBlank (sig : SigWord) (s : State) : State :=
  onBit sig sigVBlankEnd vBlankEnd <|
  onBit sig sigVBlankStart vBlankStart <|
  onBit sig sigHBlankEnd hBlankEnd <|
  onBit sig sigHBlankStart hBlankStart s

/-- `ResolveRetrace(sig)` (R204): horizontal before vertical, start before end. -/
def resolveRetrace (sig : SigWord) (s : State) : State :=
  onBit sig sigVRetraceEnd vRetraceEnd <|
  onBit sig sigVRetraceStart vRetraceStart <|
  onBit sig sigHRetraceEnd hRetraceEnd <|
  onBit sig sigHRetraceStart hRetraceStart s

/-- `Blanking`: either blank latch or one of the three permanent-disable flags (R25). -/
def blanking (s : State) : Bool :=
  s.S.hblank || s.S.vblank || s.P.clk.screenDisable || s.P.attr.paletteDisabled || s.P.crtc.crtcNorender

/-- `retrace_active` (R113). -/
def retracing (s : State) : Bool := s.S.hretrace || s.S.vretrace

/-- A blink phase, `S.frame_ctr[3 + sel] == 0`; selector 3 is reserved (R27, R52). -/
def blinkOn (which : Selector) (sel : BitVec 2) (s : State) : Res Bool :=
  if sel = 3 then reserved which else .ok (!s.S.frameCtr.getLsbD (3 + sel.toNat))

/-- `CursorOn` (R27). -/
def cursorOn (s : State) : Res Bool := blinkOn .cursorBlinkSel s.P.attr.cursorBlinkSel s

/-- `TextBlinkOn` (R27). -/
def textBlinkOn (s : State) : Res Bool := blinkOn .textBlinkSel s.P.attr.textBlinkSel s

end Sys2Proof.Machine
end

