-- ==== Sys2Proof/Machine/Ops.lean ====
section
/-! DEFINITION. The named operations over memory and registers: plane reads and writes (R84 to R86),
the palette and its access counters (R47, R163, R164), the timing-table lookups (R112, R178, R202).
The hardware takes no exception: "There is no trap entry: no state is saved, no mode changes, control
goes nowhere" (R357), and there is no return from one (R358), so neither operation exists. Abnormal
conditions are resolved where they arise (R350). -/

namespace Sys2Proof.Machine

/-! ### VRAM -/

/-- Where a plane byte is kept in the VRAM store. -/
def planeKey (p off : Nat) : Nat := 4 * off + p

/-- The effective offset, or none past the limit or the plane: mask first, then limit, then bounds
(R84). -/
def effectiveOffset (par : Params) (off : Nat) : Option Nat :=
  let e := off &&& par.vramMask
  if (match par.vramLimit with | none => false | some lim => decide (lim ≤ e)) then none
  else if par.planeSize ≤ e then none
  else some e

/-- `PlaneRead(p, off)` (R84). -/
def planeRead (s : State) (p off : Nat) : Byte :=
  match effectiveOffset s.par off with
  | none => Config.floatingBus
  | some e => s.vram.read (planeKey p e)

/-- `PlaneWrite(p, off, v)` (R85), with the event of R88. -/
def planeWrite (p off : Nat) (v : Byte) (s : State) : State :=
  match effectiveOffset s.par off with
  | none => s
  | some e =>
    let s := s.setVram (s.vram.write (planeKey p e) v)
    if 2 ≤ p then s.emit (.plane23 p e) else s

/-- `FetchDword(off)` (R86). -/
def fetchDword (s : State) (off : Nat) : BitVec 32 :=
  planeRead s 3 off ++ planeRead s 2 off ++ planeRead s 1 off ++ planeRead s 0 off

/-- A CRTC address reduced to `MEMADDR_BITS` (R9, R30). -/
def wrapAddr (par : Params) (n : Nat) : Nat := n % 2 ^ par.memaddrBits

/-! ### Palette -/

/-- Where a palette component is kept (R57). -/
def palKey (i : Byte) (comp : Nat) : Nat := 4 * i.toNat + comp

/-- Component 0, 1 or 2 (r, g, b) of `PAL[i]` (R57). -/
def palAt (m : Memory) (i : Byte) (comp : Nat) : Byte := m.read (palKey i comp)

/-- `DACWDATA(v)` without the recompute (R163): store one component, step the write counters. -/
def dacWriteData (v : Byte) (s : State) : State :=
  let c := v &&& dacMaskOf s.par.dacBits
  let d := s.dacs
  let s := s.setReg (s.reg.write (regKey secDac 3) c)
  let s := if d.wsub.toNat ≤ 2 then s.setPal (s.pal.write (palKey d.widx d.wsub.toNat) c) else s
  if d.wsub = 2 then s.setDacs { d with wsub := 0, widx := d.widx + 1 }
  else s.setDacs { d with wsub := d.wsub + 1 }

/-- The component a DAC_DATA read returns (R164). -/
def dacReadValue (s : State) : Byte := palAt s.pal s.dacs.ridx s.dacs.rsub.toNat

/-- `DACRDATA()` (R164): return one component, step the read counters. -/
def dacReadData (s : State) : State :=
  let d := s.dacs
  let s := s.setResult (.byte (dacReadValue s))
  if d.rsub = 2 then s.setDacs { d with rsub := 0, ridx := d.ridx + 1 }
  else s.setDacs { d with rsub := d.rsub + 1 }

/-! ### Timing tables -/

/-- One entry of a timing table, bits 6..0 of its axis: OVERSCAN, ACTIVE_DISPLAY, BLANK_END,
BLANK_START, RETRACE_END, RETRACE_START, TOTAL (R112, R178). -/
def axisWord {w : Nat} (bp : Breakpoints w) (c : BitVec w) : BitVec 7 :=
  let shown := decide (c.toNat < bp.total.toNat)
  let active := decide (bp.displayStart.toNat ≤ c.toNat) && decide (c.toNat < bp.displayEnd.toNat)
  BitVec.ofBool (shown && !active) ++ BitVec.ofBool (shown && active) ++
  BitVec.ofBool (c == bp.blankEnd) ++ BitVec.ofBool (c == bp.blankStart) ++
  BitVec.ofBool (c == bp.retraceEnd) ++ BitVec.ofBool (c == bp.retraceStart) ++
  BitVec.ofBool (c == bp.total)

/-- `HTAB[c]` (R56, R112). -/
def htabAt (s : State) (c : BitVec 15) : SigWord :=
  match s.htab with
  | none => 0
  | some bp => (axisWord bp c).setWidth 16

/-- `VTAB[r]` (R56, R112). -/
def vtabAt (s : State) (r : BitVec 12) : SigWord :=
  match s.vtab with
  | none => 0
  | some bp => (axisWord bp r).setWidth 16 <<< 8

/-- `sig = HTAB[S.x] | VTAB[S.y]` (R202). -/
def signal (s : State) : SigWord := htabAt s s.S.x ||| vtabAt s s.S.y

end Sys2Proof.Machine
end

