-- ==== Sys2Proof/Machine/Recompute.lean ====
section
/-! DEFINITION. The PrecalcEngine (`spec/41_precalc_engine.md`): the derivation of PrecalcState from
the register file (R50), the guarded blocks of the recompute (R172), the table rebuild (R178) and the
latch clearing of a mode change (R182). ATTRLUT, the effective-colour table and the luminance tables
are evaluated as functions (R58, R59, R66, R179), so the flags `need_attr` and `need_dac` have nothing
to act on (log 15). -/

namespace Sys2Proof.Machine

/-- Block B1: SEQ 0x00 (R43, R50). -/
def deriveClocking (m : Memory) : Clocking :=
  let r := regAt m secSeq 0x00
  { char9 := r.getLsbD 0
    charWidth := if r.getLsbD 0 then .nine else .eight
    pixelDiv := r.extractLsb' 1 2
    screenDisable := r.getLsbD 5 }

/-- Block B2: SEQ 0x01..0x05 (R43, R50). -/
def deriveMemMode (m : Memory) : MemMode :=
  let r := regAt m secSeq 0x01
  { paRead := r.extractLsb' 0 2
    paWrite := r.extractLsb' 2 2
    char16 := r.getLsbD 4
    fontBase0 := reg16 m secSeq 0x02
    fontBase1 := reg16 m secSeq 0x04 }

/-- `sat_15(v * P.char_width)` (R50, R51). -/
def hPosition (cw : CharWidth) (v : BitVec 12) : BitVec 15 :=
  BitVec.ofNat 15 (min (v.toNat * cellDots cw) 0x7FFF)

/-- Block B3: CRTC 0x00..0x0D, in dots (R41, R50). -/
def deriveH (m : Memory) (cw : CharWidth) : Breakpoints 15 where
  displayStart := hPosition cw (reg12 m secCrtc 0x00)
  displayEnd := hPosition cw (reg12 m secCrtc 0x02)
  blankStart := hPosition cw (reg12 m secCrtc 0x04)
  blankEnd := hPosition cw (reg12 m secCrtc 0x06)
  retraceStart := hPosition cw (reg12 m secCrtc 0x08)
  retraceEnd := hPosition cw (reg12 m secCrtc 0x0A)
  total := hPosition cw (reg12 m secCrtc 0x0C)

/-- Block B4: CRTC 0x0E..0x1B (R41, R50). -/
def deriveV (m : Memory) : Breakpoints 12 where
  displayStart := reg12 m secCrtc 0x0E
  displayEnd := reg12 m secCrtc 0x10
  blankStart := reg12 m secCrtc 0x12
  blankEnd := reg12 m secCrtc 0x14
  retraceStart := reg12 m secCrtc 0x16
  retraceEnd := reg12 m secCrtc 0x18
  total := reg12 m secCrtc 0x1A

/-- Block B5: CRTC 0x1C..0x29 (R41, R50). -/
def deriveGeometry (m : Memory) : Geometry :=
  let mode := regAt m secCrtc 0x29
  { charHeight := ((regAt m secCrtc 0x1C).extractLsb' 0 5).setWidth 6 + 1
    rowSize := reg16 m secCrtc 0x1D
    startAddress := reg16 m secCrtc 0x1F
    bytePanning := (regAt m secCrtc 0x21).extractLsb' 0 2
    topwindowStart := reg12 m secCrtc 0x22
    cursorLocation := reg16 m secCrtc 0x24
    cursorStart := (regAt m secCrtc 0x26).extractLsb' 0 5
    cursorEnd := (regAt m secCrtc 0x27).extractLsb' 0 5
    cursorEnable := !(regAt m secCrtc 0x26).getLsbD 5
    underlineLocation := (regAt m secCrtc 0x28).extractLsb' 0 5
    addrMode := mode.extractLsb' 0 2
    wrapSel := mode.getLsbD 2
    scandouble := mode.getLsbD 3
    crtcNorender := mode.getLsbD 4
    timingProtect := mode.getLsbD 7 }

/-- Block B6: GFX 0x00 (R44, R50). -/
def deriveGfxMode (m : Memory) : GfxMode :=
  let r := regAt m secGfx 0x00
  { textMode := r.getLsbD 0, shiftMode := r.extractLsb' 1 2 }

/-- Block B7: ATTR 0x00..0x14 (R45, R50). -/
def deriveAttrCtl (m : Memory) : AttrCtl :=
  let mode := regAt m secAttr 0x10
  let blink := regAt m secAttr 0x14
  { palette16 := Vector.ofFn fun i : Fin 16 => regAt m secAttr (BitVec.ofNat 8 i.val)
    attrMode := mode.extractLsb' 0 2
    blinkEnable := mode.getLsbD 2
    monoAttr := mode.getLsbD 3
    lineGraphics := mode.getLsbD 4
    topwindowPanreset := mode.getLsbD 5
    paletteDisabled := mode.getLsbD 6
    overscanIndex := regAt m secAttr 0x11
    colorPlaneEnable := (regAt m secAttr 0x12).extractLsb' 0 4
    pixelShiftCount := (regAt m secAttr 0x13).extractLsb' 0 4
    cursorBlinkSel := blink.extractLsb' 0 2
    textBlinkSel := blink.extractLsb' 2 2 }

/-- Block B8: DAC 0x00, 0x04, 0x05 (R46, R50). -/
def deriveDacCtl (m : Memory) : DacCtl :=
  let mode := regAt m secDac 0x04
  let mono := regAt m secDac 0x05
  { dacMask := regAt m secDac 0x00
    dacMode := mode.extractLsb' 0 3
    dacLut := mode.getLsbD 3
    dacSwap := mode.getLsbD 4
    dacOff := mode.getLsbD 7
    monoMode := mono.extractLsb' 0 2
    lumMethod := mono.getLsbD 2 }

/-- `Derive(REG)` (R50). -/
def derive (m : Memory) : Precalc where
  clk := deriveClocking m
  mem := deriveMemMode m
  h := deriveH m (deriveClocking m).charWidth
  v := deriveV m
  crtc := deriveGeometry m
  gfx := deriveGfxMode m
  attr := deriveAttrCtl m
  dac := deriveDacCtl m

/-- Registers whose change block B8 looks at (R172). -/
def dacDerives (i : Byte) : Bool := i == 0x00 || between 0x03 0x05 i

/-- The blocks B1 to B8 in their fixed order: each re-derives its fields if the tag affects it, B3 also
if B1 changed the character width (R171, R172). -/
def recomputeBlocks (t : Tag) (m : Memory) (p : Precalc) : Precalc :=
  let clk := if Tag.affects t secSeq (between 0x00 0x00) then deriveClocking m else p.clk
  { clk := clk
    mem := if Tag.affects t secSeq (between 0x01 0x05) then deriveMemMode m else p.mem
    h := if Tag.affects t secCrtc (between 0x00 0x0D) || clk.charWidth != p.clk.charWidth then
           deriveH m clk.charWidth else p.h
    v := if Tag.affects t secCrtc (between 0x0E 0x1B) then deriveV m else p.v
    crtc := if Tag.affects t secCrtc (between 0x1C 0x29) then deriveGeometry m else p.crtc
    gfx := if Tag.affects t secGfx (between 0x00 0x00) then deriveGfxMode m else p.gfx
    attr := if Tag.affects t secAttr (between 0x00 0x14) then deriveAttrCtl m else p.attr
    dac := if Tag.affects t secDac dacDerives then deriveDacCtl m else p.dac }

/-- `need_timing`: a breakpoint changed or the tag is ALL (R172). -/
def needTiming (t : Tag) (old new : Precalc) : Bool := t == .all || old.h != new.h || old.v != new.v

/-- `RebuildTimingTables()`: both tables are built from the current breakpoints (R178). -/
def rebuildTimingTables (s : State) : State := s.setTables (some s.P.h) (some s.P.v)

/-- `ClearLatches()` (R182). `S.last_emit` is kept, where R65 has it cleared with the three latches (DEDUCED,
log 31). -/
def clearLatches (s : State) : State := s.setS { s.S with dacCount := 0, dacLatch := 0, attrLatch := 0 }

/-- The precalc-extension hook, last in a recompute: `P = Ext(Derive(REG))`, and the tables are rebuilt if
that changes a breakpoint (R185, log 8, log 19). The hook is given the whole of `Derive(REG)`, also where the
tag's blocks re-derived only a part of `P` (DEDUCED, log 22). -/
def runPrecalcExt (t : Tag) (s : State) : State :=
  if s.par.precalcExt then
    let p := Config.precalcExt s.epoch t (derive s.reg)
    let changed := p.h != s.P.h || p.v != s.P.v
    let s := s.setP p
    if changed then rebuildTimingTables s else s
  else s

/-- `Recompute(tag)` (R172). -/
def recompute (t : Tag) (s : State) : State :=
  let old := s.P
  let new := recomputeBlocks t s.reg old
  let s := s.setP new
  let s := if needTiming t old new then rebuildTimingTables s else s
  let s := if old.dac.dacMode != new.dac.dacMode || old.attr.attrMode != new.attr.attrMode then
    clearLatches s else s
  runPrecalcExt t s

end Sys2Proof.Machine
end

