-- ==== Sys2Proof/Machine/PlaneAddress.lean ====
section
/-! DEFINITION. Plane addressing (`spec/44_plane_addressing.md`): the four plane-address strategies
(R270 to R274), the CRTC address translation (R276, R277), and the operations PADEC, PA.* and XLT.*. -/

namespace Sys2Proof.Machine

/-- `1 << A[1:0]`, the plane mask of the strategies that select one plane (R272, R274). -/
def onePlane (a : BitVec 32) : BitVec 4 := 1#4 <<< (a.extractLsb' 0 2).toNat

/-- PA.PLANAR (R271). -/
def paPlanar (a : BitVec 32) : BitVec 4 × BitVec 32 := (0xF, a)

/-- PA.CHAIN4 (R272). -/
def paChain4 (a : BitVec 32) : BitVec 4 × BitVec 32 :=
  (onePlane a, (a &&& ~~~3#32) ||| (a.extractLsb' 14 2).setWidth 32)

/-- PA.ODDEVEN (R273): the bit just above the CRTC wrap bit replaces bit 0 in WORD addressing. -/
def paOddeven (mode : AddrMode) (wrap : Bool) (a : BitVec 32) : BitVec 4 × BitVec 32 :=
  let wb := if wrap then 15 else 13
  let b0 := match mode with
    | .word => a.getLsbD (wb + 1)
    | _ => false
  (if a.getLsbD 0 then 0xA else 0x5, (a &&& ~~~1#32) ||| (BitVec.ofBool b0).setWidth 32)

/-- PA.LINEAR (R274). -/
def paLinear (a : BitVec 32) : BitVec 4 × BitVec 32 := (onePlane a, a >>> 2)

/-- `PaOddEven` under the current `P.addr_mode`, which it needs (R273, U3, log 12). -/
def paOddevenIn (p : Precalc) (wrap : Bool) (a : BitVec 32) : Res (BitVec 4 × BitVec 32) := do
  let mode ← addrModeOf p.crtc.addrMode
  pure (paOddeven mode wrap a)

/-- `PlaneAddr(direction, A)` (R270). -/
def planeAddr (p : Precalc) (write : Bool) (a : BitVec 32) : Res (BitVec 4 × BitVec 32) :=
  match paModeOf (if write then p.mem.paWrite else p.mem.paRead) with
  | .planar => .ok (paPlanar a)
  | .chain4 => .ok (paChain4 a)
  | .oddeven => paOddevenIn p p.crtc.wrapSel a
  | .linear => .ok (paLinear a)

/-- Return a `(plane_mask, internal_offset)` pair. -/
def returnPlaneAddr (r : BitVec 4 × BitVec 32) (s : State) : State := s.setResult (.planeAddr r.1 r.2)

/-- Bit `i` of a CRTC address, in place 0. -/
def addrBit (addr i : Nat) : Nat := (addr.testBit i).toNat

/-- XLT.BYTE (R276). -/
def xltByteOf (addr : Nat) : Nat := addr

/-- XLT.WORD (R276), `m` = `MEMADDR_BITS`. -/
def xltWordOf (m : Nat) (wrap : Bool) (addr : Nat) : Nat :=
  (addr * 2 % 2 ^ m) ||| addrBit addr (if wrap then 15 else 13)

/-- XLT.DWORD (R276). -/
def xltDwordOf (m : Nat) (addr : Nat) : Nat := (addr * 4 % 2 ^ m) ||| (addr / 2 ^ 12 % 4)

/-- The default offset of a mode (R276). -/
def defaultOffset (m : Nat) (mode : AddrMode) (wrap : Bool) (addr : Nat) : Nat :=
  match mode with
  | .byte => xltByteOf addr
  | .word => xltWordOf m wrap addr
  | .dword => xltDwordOf m addr

/-- `P.addr_mode` as the address-wrap-override hook is given it (R277). -/
def addrModeCode : AddrMode → BitVec 2
  | .byte => 0
  | .word => 1
  | .dword => 2

/-- The address-wrap-override hook, if plugged in (R277, log 8). It is given the number of operations started, so that
two ADVANCE operations may fetch otherwise than the one that R147 calls the same as them (DEDUCED, log 34). -/
def overrideOffset (s : State) (mode : AddrMode) (addr off : Nat) : Nat :=
  if s.par.addrWrapOverride then Config.addrWrapOverride s.epoch addr (addrModeCode mode) off else off

/-- `Translate(addr)` in a given mode (R276, R277). -/
def translateIn (s : State) (mode : AddrMode) (wrap : Bool) (addr : Nat) : Nat :=
  overrideOffset s mode addr (defaultOffset s.par.memaddrBits mode wrap addr)

/-- `Translate(addr)` under the current `P.addr_mode` and `P.wrap_sel` (R276). -/
def translate (s : State) (addr : Nat) : Res Nat := do
  let mode ← addrModeOf s.P.crtc.addrMode
  pure (translateIn s mode s.P.crtc.wrapSel addr)

/-- Return the offset a translate variant gives for a CRTC address operand (R276). The mode is the row's own, for
the offset and for the hook, whatever `P.addr_mode` is, the reserved 3 included (DESIGN CHOICE, log 4). -/
def returnOffset (mode : AddrMode) (wrap : Bool) (addr : BitVec 32) (s : State) : State :=
  s.setResult (.offset (translateIn s mode wrap (wrapAddr s.par addr.toNat)))

/-! ### Meanings -/

/-- PADEC (R154). -/
def execPadec (write : Bool) (addr : BitVec 32) (s : State) : Out :=
  outcome (do
    let r ← planeAddr s.P write addr
    pure (returnPlaneAddr r s))

/-- PA.PLANAR.R (R271). -/
def execPaPlanarR (addr : BitVec 32) (s : State) : Out := .next (returnPlaneAddr (paPlanar addr) s)

/-- PA.PLANAR.W (R271). -/
def execPaPlanarW (addr : BitVec 32) (s : State) : Out := .next (returnPlaneAddr (paPlanar addr) s)

/-- PA.CHAIN4.R (R272). -/
def execPaChain4R (addr : BitVec 32) (s : State) : Out := .next (returnPlaneAddr (paChain4 addr) s)

/-- PA.CHAIN4.W (R272). -/
def execPaChain4W (addr : BitVec 32) (s : State) : Out := .next (returnPlaneAddr (paChain4 addr) s)

/-- PA.ODDEVEN.R (R273). -/
def execPaOddevenR (wrap : Bool) (addr : BitVec 32) (s : State) : Out :=
  outcome (do
    let r ← paOddevenIn s.P wrap addr
    pure (returnPlaneAddr r s))

/-- PA.ODDEVEN.W (R273). -/
def execPaOddevenW (wrap : Bool) (addr : BitVec 32) (s : State) : Out :=
  outcome (do
    let r ← paOddevenIn s.P wrap addr
    pure (returnPlaneAddr r s))

/-- PA.LINEAR.R (R274). -/
def execPaLinearR (addr : BitVec 32) (s : State) : Out := .next (returnPlaneAddr (paLinear addr) s)

/-- PA.LINEAR.W (R274). -/
def execPaLinearW (addr : BitVec 32) (s : State) : Out := .next (returnPlaneAddr (paLinear addr) s)

/-- XLT.BYTE (R276). -/
def execXltByte (addr : BitVec 32) (s : State) : Out := .next (returnOffset .byte s.P.crtc.wrapSel addr s)

/-- XLT.WORD (R276); its operand is `wrap_sel` (R114). -/
def execXltWord (wrap : Bool) (addr : BitVec 32) (s : State) : Out := .next (returnOffset .word wrap addr s)

/-- XLT.DWORD (R276). -/
def execXltDword (addr : BitVec 32) (s : State) : Out := .next (returnOffset .dword s.P.crtc.wrapSel addr s)

end Sys2Proof.Machine
end

