-- ==== Sys2Proof/Machine/PixelDecode.lean ====
section
/-! DEFINITION. The PixelDecodePipeline (`spec/43_pixel_decode.md`): the clock divider (R241), text
decode (R243 to R247), graphics decode (R249 to R252), and the operations DEC.* and DIV.*. -/

namespace Sys2Proof.Machine

/-! ### Text mode -/

/-- `FontRow(ch, at, row)` (R245). -/
def fontRow (s : State) (ch attr : BitVec 16) (row : BitVec 5) : Byte :=
  let base := if attr.getLsbD 3 then s.P.mem.fontBase1 else s.P.mem.fontBase0
  planeRead s 2 (base.toNat + s.par.glyphStride * ch.toNat + row.toNat)

/-- The character or attribute at an offset, with the extra plane's byte on top for 16-bit codes
(R243, R244). -/
def cellWord (s : State) (char16 : Bool) (low high : Nat) (off : Nat) : BitVec 16 :=
  if char16 then planeRead s high off ++ planeRead s low off else (planeRead s low off).setWidth 16

/-- Load the fetch registers of a text cell from a plane offset (R243). -/
def loadCell (char16 : Bool) (col : BitVec 15) (addr off : Nat) (s : State) : State :=
  let ch := cellWord s char16 0 2 off
  let at' := cellWord s char16 1 3 off
  s.setS { s.S with
    cellFont := fontRow s ch at' s.S.rowscan
    cellChar := ch
    cellAttr := at'
    cellAddr := addr
    fetchGroup := col
    fetchValid := true
    charcol := col
    lightpenAddr := BitVec.ofNat 32 off }

/-- Whether the fetch registers hold a group of this scanline (R243, R249). -/
def holds (s : State) (group : BitVec 15) : Bool := s.S.fetchValid && s.S.fetchGroup == group

/-- The CRTC address of a cell or fetch group of this scanline (R243, R249). -/
def groupAddr (s : State) (group : BitVec 15) : Nat := wrapAddr s.par (s.S.memaddr + group.toNat)

/-- Fetch a text cell unless it is held (R243). -/
def fetchCell (char16 : Bool) (col : BitVec 15) (s : State) : Res State :=
  if holds s col then .ok s
  else do
    let off ← translate s (groupAddr s col)
    pure (loadCell char16 col (groupAddr s col) off s)

/-- `FontBit(icol)` (R246). -/
def fontBit (s : State) (lineGraphics : Bool) (icol : Nat) : Bool :=
  if icol < 8 then s.S.cellFont.getLsbD (7 - icol)
  else lineGraphics && decide (s.par.lineGfxLo.toNat ≤ s.S.cellChar.toNat) &&
    decide (s.S.cellChar.toNat ≤ s.par.lineGfxHi.toNat) && s.S.cellFont.getLsbD 0

/-- The cell held is the cursor's and the inner row is inside the cursor's shape (R247). -/
def cursorCell (s : State) : Bool :=
  s.P.crtc.cursorEnable && s.S.cellAddr == s.P.crtc.cursorLocation.toNat &&
    decide (s.P.crtc.cursorStart.toNat ≤ s.S.rowscan.toNat) &&
    decide (s.S.rowscan.toNat ≤ s.P.crtc.cursorEnd.toNat)

/-- `CursorHere()` (R247); the blink phase is needed only where the cell is the cursor's (log 11). -/
def cursorHere (s : State) : Res Bool := if cursorCell s then cursorOn s else .ok false

/-- `DecodeText(px)` for cells of `cw` dots (R243). -/
def decodeText (cw : CharWidth) (lineGraphics char16 : Bool) (px : BitVec 15) (s : State) :
    Res (AttrInfo × State) := do
  let mode ← attrModeOf s.P.attr.attrMode
  let s ← fetchCell char16 (BitVec.ofNat 15 (px.toNat / cellDots cw)) s
  let cursor ← cursorHere s
  let bit := fontBit s lineGraphics (px.toNat % cellDots cw) || cursor
  pure ({ attr := s.S.cellAttr, font := bit, size := attrSizeOf mode, phase := px.getLsbD 0 }, s)

/-! ### Graphics mode -/

/-- Byte `p` of the fetched dword: plane `p` (R86, R249). -/
def planeByte (dword : BitVec 32) (p : Nat) : Byte := dword.extractLsb' (8 * p) 8

/-- `Planar(b0, b1, b2, b3, i)` (R250). -/
def planarUnit (d : BitVec 32) (i : Nat) : BitVec 4 :=
  BitVec.ofBool ((planeByte d 3).getLsbD (7 - i)) ++ BitVec.ofBool ((planeByte d 2).getLsbD (7 - i)) ++
  BitVec.ofBool ((planeByte d 1).getLsbD (7 - i)) ++ BitVec.ofBool ((planeByte d 0).getLsbD (7 - i))

/-- `Packed(b0, b1, b2, b3, i)` (R251). -/
def packedUnit (d : BitVec 32) (i : Nat) : BitVec 4 :=
  let lo := if i < 4 then planeByte d 0 else planeByte d 1
  let hi := if i < 4 then planeByte d 2 else planeByte d 3
  let sh := 6 - 2 * (i % 4)
  hi.extractLsb' sh 2 ++ lo.extractLsb' sh 2

/-- `Shift256(b0, b1, b2, b3, i)` outside ATTR16: one nibble per unit (R252). -/
def shift256Nibble (d : BitVec 32) (i : Nat) : BitVec 4 :=
  let b := planeByte d (i / 2)
  if i % 2 = 0 then b.extractLsb' 4 4 else b.extractLsb' 0 4

/-- The unit `i` of a dword, widened to the attribute word (R249 to R252). -/
def graphicsUnit (shift : ShiftMode) (attr : AttrMode) (d : BitVec 32) (i : Nat) : BitVec 16 :=
  match shift, attr with
  | .planar, _ => (planarUnit d i).setWidth 16
  | .packed, _ => (packedUnit d i).setWidth 16
  | .shift256, .attr16 => (planeByte d i).setWidth 16
  | .shift256, _ => (shift256Nibble d i).setWidth 16

/-- `UnitsPerDword()` (R252). -/
def unitsPerDword (shift : ShiftMode) (attr : AttrMode) : Nat :=
  match shift, attr with
  | .shift256, .attr16 => 4
  | _, _ => 8

/-- Load the shift register of a fetch group from a plane offset (R249). -/
def loadDword (group : BitVec 15) (off : Nat) (s : State) : State :=
  s.setS { s.S with
    shiftreg := fetchDword s off
    fetchGroup := group
    fetchValid := true
    charcol := group
    lightpenAddr := BitVec.ofNat 32 off }

/-- Fetch a group unless it is held (R249). -/
def fetchGroup (group : BitVec 15) (s : State) : Res State :=
  if holds s group then .ok s
  else do
    let off ← translate s (groupAddr s group)
    pure (loadDword group off s)

/-- `DecodeGraphics(px)` in a given shift mode (R249). -/
def decodeGraphics (shift : ShiftMode) (px : BitVec 15) (s : State) : Res (AttrInfo × State) := do
  let mode ← attrModeOf s.P.attr.attrMode
  let u := unitsPerDword shift mode
  let s ← fetchGroup (BitVec.ofNat 15 (px.toNat / u)) s
  pure ({ attr := graphicsUnit shift mode s.S.shiftreg (px.toNat % u), font := false,
          size := attrSizeOf mode, phase := px.getLsbD 0 }, s)

/-! ### The decode step -/

/-- `px`, the unit index on this scanline after panning (R242). -/
def unitIndex (s : State) : BitVec 15 := s.S.activePx + s.S.pixshift.setWidth 15

/-- The unit is counted (R242). -/
def countUnit (s : State) : State := s.setS { s.S with activePx := s.S.activePx + 1 }

/-- `Decode()` (R242). -/
def decodeUnit (s : State) : Res (AttrInfo × State) :=
  if s.P.gfx.textMode then
    decodeText s.P.clk.charWidth s.P.attr.lineGraphics s.P.mem.char16 (unitIndex s) (countUnit s)
  else do
    let shift ← shiftModeOf s.P.gfx.shiftMode
    decodeGraphics shift (unitIndex s) (countUnit s)

/-! ### The clock divider -/

/-- Whether this tick is a reload tick: the phase is 0, whatever `P.pixel_div` is (R211, R241, log 30). -/
def reloadNow (s : State) : Bool := s.S.divPhase == 0

/-- The divider phase steps modulo `2^P.pixel_div` (R211). -/
def stepDivider (modulus : Nat) (s : State) : State :=
  s.setS { s.S with divPhase := BitVec.ofNat 2 ((s.S.divPhase.toNat + 1) % modulus) }

/-- One divider variant by itself: say whether the tick reloads, step the phase (R241). -/
def divide (modulus : Nat) (s : State) : State :=
  (stepDivider modulus s).setResult (.reload (reloadNow s))

/-! ### Meanings -/

/-- Put a decoded unit into the stage registers (log 4). -/
def putUnit (r : AttrInfo × State) : State := r.2.setPipe { r.2.pipe with ai := some r.1 }

/-- DEC.TEXT (R243); its operands are char9, line_graphics and char16 (R114). -/
def execDecText (char9 lineGraphics char16 : Bool) (s : State) : Out :=
  outcome (do
    let cw := if char9 then CharWidth.nine else CharWidth.eight
    let r ← decodeText cw lineGraphics char16 (unitIndex s) (countUnit s)
    pure (putUnit r))

/-- DEC.PLANAR (R249, R250). -/
def execDecPlanar (s : State) : Out :=
  outcome (do
    let r ← decodeGraphics .planar (unitIndex s) (countUnit s)
    pure (putUnit r))

/-- DEC.PACKED (R249, R251). -/
def execDecPacked (s : State) : Out :=
  outcome (do
    let r ← decodeGraphics .packed (unitIndex s) (countUnit s)
    pure (putUnit r))

/-- DEC.SHIFT256 (R249, R252). -/
def execDecShift256 (s : State) : Out :=
  outcome (do
    let r ← decodeGraphics .shift256 (unitIndex s) (countUnit s)
    pure (putUnit r))

/-- DIV.FULL (R241): every active tick. -/
def execDivFull (s : State) : Out := .next (divide 1 s)

/-- DIV.HALF (R241): every second active tick. -/
def execDivHalf (s : State) : Out := .next (divide 2 s)

/-- DIV.QUARTER (R241): every fourth active tick. -/
def execDivQuarter (s : State) : Out := .next (divide 4 s)

end Sys2Proof.Machine
end

