-- ==== Sys2Proof/Machine/Attribute.lean ====
section
/-! DEFINITION. The AttributeResolver (`spec/45_attribute_resolver.md`): the lookup (R291, R292), the
three modes (R294, R295, R297), and the operations ATTR.*. -/

namespace Sys2Proof.Machine

/-- Whether the blink phase takes part in an attribute's lookup: text mode, blink enabled, bit 7 set
(R292 rule (3)). -/
def blinkMatters (p : Precalc) (a : Byte) : Bool :=
  p.gfx.textMode && p.attr.blinkEnable && a.getLsbD 7

/-- The font flag after the three text rules, in their order: forced background, underline, blink
gating (R292). -/
def textFlag (par : Params) (p : Precalc) (a : Byte) (font blink : Bool) (row : BitVec 5) : Bool :=
  let f := if p.attr.monoAttr && par.monoForcedBg.contains a then false else font
  let f := if a &&& 0x77 == 0x01 && row == p.crtc.underlineLocation then true else f
  if blinkMatters p a && !blink then false else f

/-- The background nibble of a text attribute: with blink enabled bit 7 is no intensity bit (R292). -/
def background (p : Precalc) (a : Byte) : BitVec 4 :=
  let bg := a.extractLsb' 4 4
  if p.attr.blinkEnable then bg &&& 0x7 else bg

/-- The nibble before colour-plane enable (R292). -/
def attrNibble (par : Params) (p : Precalc) (a : Byte) (font blink : Bool) (row : BitVec 5) : BitVec 4 :=
  if p.gfx.textMode then
    if textFlag par p a font blink row then a.extractLsb' 0 4 else background p a
  else a.extractLsb' 0 4

/-- `AttrEntry(a, font, blink, row)` (R292). -/
def attrEntry (par : Params) (p : Precalc) (a : Byte) (font blink : Bool) (row : BitVec 5) : Byte :=
  let nib := attrNibble par p a font blink row &&& p.attr.colorPlaneEnable
  if p.attr.attrMode = 1 then nib.setWidth 8 else p.attr.palette16[nib.toNat]

/-- `Lookup(ai)` (R291); the blink phase is read only where it takes part (log 11). -/
def lookup (ai : AttrInfo) (s : State) : Res Byte :=
  let a := ai.attr.extractLsb' 0 8
  if blinkMatters s.P a then do
    let blink ← textBlinkOn s
    pure (attrEntry s.par s.P a ai.font blink s.S.rowscan)
  else .ok (attrEntry s.par s.P a ai.font true s.S.rowscan)

/-- Hold a first half in the attribute latch (R295, R297). -/
def latchAttr (b : Byte) (s : State) : State := s.setS { s.S with attrLatch := b }

/-- `Attr4(ai)` (R294). -/
def attr4Of (ai : AttrInfo) (s : State) : Res (Option AttrValue × State) := do
  let v ← lookup ai s
  pure (some ⟨v.setWidth 16, 1⟩, s)

/-- `Attr8(ai)` (R295): first nibble high. -/
def attr8Of (ai : AttrInfo) (s : State) : Res (Option AttrValue × State) := do
  let v ← lookup ai s
  let n := v.extractLsb' 0 4
  if ai.phase then pure (some ⟨(s.S.attrLatch.extractLsb' 0 4 ++ n).setWidth 16, 1⟩, s)
  else pure (none, latchAttr (n.setWidth 8) s)

/-- `Attr16(ai)` (R297): first byte low, no lookup. Each unit gives its low byte alone, as R297's pseudocode has it,
where R244 says that the high byte of a 16-bit attribute word matters in ATTR16 (DEDUCED, log 26). -/
def attr16Of (ai : AttrInfo) (s : State) : Option AttrValue × State :=
  let b := ai.attr.extractLsb' 0 8
  if ai.phase then (some ⟨b ++ s.S.attrLatch, 2⟩, s) else (none, latchAttr b s)

/-- `Resolve(ai)` (R290). -/
def resolve (ai : AttrInfo) (s : State) : Res (Option AttrValue × State) := do
  let mode ← attrModeOf s.P.attr.attrMode
  match mode with
  | .attr4 => attr4Of ai s
  | .attr8 => attr8Of ai s
  | .attr16 => pure (attr16Of ai s)

/-! ### Meanings -/

/-- Put an attribute value into the stage registers (log 4). -/
def putValue (r : Option AttrValue × State) : State := r.2.setPipe { r.2.pipe with val := r.1 }

/-- Run an attribute variant on the unit in the stage registers; with none there, none results. -/
def onUnit (f : AttrInfo → State → Res (Option AttrValue × State)) (s : State) : Out :=
  match s.pipe.ai with
  | none => .next (putValue (none, s))
  | some ai => outcome (do
      let r ← f ai s
      pure (putValue r))

/-- ATTR.4 (R294). Issued alone while `P.attr_mode` is another mode or the reserved 3, it runs, and its lookup
follows `P` in all its inputs, the palette bypass of ATTR8 included, not the row issued or its PMODE image
(DESIGN CHOICE, log 4). -/
def execAttr4 (s : State) : Out := onUnit attr4Of s

/-- ATTR.8 (R295). Issued alone while `P.attr_mode` is another mode or the reserved 3, it runs, and its lookup
follows `P`: the palette is bypassed only under `P.attr_mode` = ATTR8 (DESIGN CHOICE, log 4). -/
def execAttr8 (s : State) : Out := onUnit attr8Of s

/-- ATTR.16 (R297); it needs no selector, so it runs under any `P.attr_mode` (DESIGN CHOICE, log 4). -/
def execAttr16 (s : State) : Out := onUnit (fun ai s => .ok (attr16Of ai s)) s

end Sys2Proof.Machine
end

