-- ==== Sys2Proof/Machine/Dac.lean ====
section
/-! DEFINITION. The DACColorPipeline (`spec/46_dac_pipeline.md`): the byte latch (R311), the depth
conversions (R312 to R319), the palette path (R318, R320), the look-up table (R321), luminance and
monochrome (R322, R323), level (R324) and DAC-off (R325), and the operations DAC.*, MONO.*, LUM.*. -/

namespace Sys2Proof.Machine

/-! ### The byte latch -/

/-- Byte `k` of a raw colour or of an attribute value. -/
def byteOf {w : Nat} (v : BitVec w) (k : Nat) : Byte := v.extractLsb' (8 * k) 8

/-- The latch after one byte enters at the top of its `n` bytes (R311). -/
def shiftIn (n : Nat) (latch : BitVec 32) (b : Byte) : BitVec 32 :=
  BitVec.ofNat 32 (((latch >>> 8) ||| (b.setWidth 32 <<< (8 * (n - 1)))).toNat % 2 ^ (8 * n))

/-- One byte is latched; a raw colour results when the count is reached (R311). -/
def latchByte (n : Nat) (b : Byte) (s : State) : Option (BitVec 32) × State :=
  let latch := shiftIn n s.S.dacLatch b
  let count := s.S.dacCount + 1
  if count.toNat = n then
    (some latch, s.setS { s.S with dacLatch := latch, dacCount := 0, lastColor := latch })
  else (none, s.setS { s.S with dacLatch := latch, dacCount := count })

/-- The bytes are latched in order; the last raw colour completed is the answer (R311). -/
def latchBytes (n : Nat) : List Byte → Option (BitVec 32) → State → Option (BitVec 32) × State
  | [], out, s => (out, s)
  | b :: bs, out, s => latchBytes n bs ((latchByte n b s).1.or out) (latchByte n b s).2

/-- The bytes of an attribute value, low byte first (R290, R311). -/
def valueBytes (v : AttrValue) : List Byte := (List.range v.nbytes).map (byteOf v.value)

/-- `DacLatch(val)` for a mode of `need` bytes (R311). The two bytes of an ATTR16 value are both latched at once, so
that a direct-colour pixel takes half the ticks that the product of R405 gives (DEDUCED, log 29). -/
def dacLatchIn (mode : DacMode) (v : AttrValue) (s : State) : Option (BitVec 32) × State :=
  if need mode = 1 then
    let raw := (byteOf v.value 0).setWidth 32
    (some raw, s.setS { s.S with lastColor := raw })
  else latchBytes (need mode) (valueBytes v) none s

/-! ### Depth conversion -/

/-- Widening of a 5-bit field by bit replication (R314). -/
def widen5 (c : BitVec 5) : Byte := c ++ c.extractLsb' 2 3

/-- Widening of a 6-bit field by bit replication (R316, R318). -/
def widen6 (c : BitVec 6) : Byte := c ++ c.extractLsb' 4 2

/-- `SwapBytes(raw, n)` (R315): byte `k` becomes byte `n-1-k`. -/
def swapBytes (raw : BitVec 32) (n : Nat) : BitVec 32 :=
  (List.range n).foldl
    (fun acc k => acc ||| ((byteOf raw k).setWidth 32 <<< (8 * (n - 1 - k)))) 0

/-- `Dac15(c)` (R314). -/
def dac15Of (c : BitVec 32) : Rgba :=
  ⟨widen5 (c.extractLsb' 10 5), widen5 (c.extractLsb' 5 5), widen5 (c.extractLsb' 0 5), 0xFF⟩

/-- `Dac16(c)` (R316). -/
def dac16Of (c : BitVec 32) : Rgba :=
  ⟨widen5 (c.extractLsb' 11 5), widen6 (c.extractLsb' 5 6), widen5 (c.extractLsb' 0 5), 0xFF⟩

/-- `Dac24(c)` (R317). -/
def dac24Of (c : BitVec 32) : Rgba := ⟨byteOf c 2, byteOf c 1, byteOf c 0, 0xFF⟩

/-- `Dac32(c)` (R319). -/
def dac32Of (c : BitVec 32) : Rgba := ⟨byteOf c 2, byteOf c 1, byteOf c 0, byteOf c 3⟩

/-! ### Colour stages -/

/-- `Expand8(c)` (R318). -/
def expand8 : DacBits → Byte → Byte
  | .six, c => widen6 (c.extractLsb' 0 6)
  | .eight, c => c

/-- `DacLut(r, g, b)` (R321); alpha is not touched (R319). -/
def lutColour (s : State) (c : Rgba) : Rgba :=
  { c with
    r := expand8 s.par.dacBits (palAt s.pal c.r 0)
    g := expand8 s.par.dacBits (palAt s.pal c.g 1)
    b := expand8 s.par.dacBits (palAt s.pal c.b 2) }

/-- Weighted luminance (R322). -/
def lumWeightedOf (w : LumWeights) (c : Rgba) : Byte :=
  BitVec.ofNat 8 ((w.r * c.r.toNat + w.g * c.g.toNat + w.b * c.b.toNat) / (w.r + w.g + w.b))

/-- Unweighted luminance (R322). -/
def lumUnweightedOf (c : Rgba) : Byte := BitVec.ofNat 8 ((c.r.toNat + c.g.toNat + c.b.toNat) / 3)

/-- `Lum(r, g, b)` (R322). -/
def lum (s : State) (c : Rgba) : Byte :=
  if s.P.dac.lumMethod then lumUnweightedOf c else lumWeightedOf s.par.lumW c

/-- A tint at a luminance (R323); alpha is not touched (R319). -/
def tinted (t : Tint) (l : Byte) (c : Rgba) : Rgba :=
  { c with
    r := BitVec.ofNat 8 (t.r.toNat * l.toNat / 255)
    g := BitVec.ofNat 8 (t.g.toNat * l.toNat / 255)
    b := BitVec.ofNat 8 (t.b.toNat * l.toNat / 255) }

/-- `Mono(r, g, b)` in a given mode (R323). -/
def monoIn (s : State) (mode : MonoMode) (c : Rgba) : Rgba :=
  match mode with
  | .colour => c
  | .white => tinted s.par.tintWhite (lum s c) c
  | .green => tinted s.par.tintGreen (lum s c) c
  | .amber => tinted s.par.tintAmber (lum s c) c

/-- `Mono(r, g, b)` (R323). -/
def mono (s : State) (c : Rgba) : Rgba := monoIn s (monoModeOf s.P.dac.monoMode) c

/-- One entry of `DAC_LEVEL` (R324). -/
def levelEntry (par : Params) (v : Byte) : Byte := par.dacLevel.getD v.toNat v

/-- `Level(r, g, b)` (R324); alpha is not touched (R319). -/
def level (s : State) (c : Rgba) : Rgba :=
  { c with r := levelEntry s.par c.r, g := levelEntry s.par c.g, b := levelEntry s.par c.b }

/-- Solid black, the DAC-off colour (R325). -/
def black : Rgba := ⟨0, 0, 0, 0xFF⟩

/-- `DacOff(rgba)` (R325). -/
def dacOffOf (s : State) (c : Rgba) : Rgba := if s.P.dac.dacOff then black else c

/-- The palette colour of an index through the mask, before the monochrome and level stages (R320). -/
def paletteColour (s : State) (i : Byte) : Rgba :=
  let e := i &&& s.P.dac.dacMask
  ⟨expand8 s.par.dacBits (palAt s.pal e 0), expand8 s.par.dacBits (palAt s.pal e 1),
   expand8 s.par.dacBits (palAt s.pal e 2), 0xFF⟩

/-- `Effective(i)` (R320). -/
def effective (s : State) (i : Byte) : Rgba := level s (mono s (paletteColour s i))

/-! ### Conversion -/

/-- The raw colour the depth conversion sees: swapped if `P.dac_swap`, never in MODE8 (R312, R313). -/
def presented (s : State) (mode : DacMode) (raw : BitVec 32) : BitVec 32 :=
  match mode with
  | .m8 => raw
  | _ => if s.P.dac.dacSwap then swapBytes raw (need mode) else raw

/-- The depth conversion (R313, R314, R316, R317, R319); in MODE8 the result is `Effective`. -/
def depthColour (s : State) (mode : DacMode) (c : BitVec 32) : Rgba :=
  match mode with
  | .m8 => effective s (byteOf c 0)
  | .m15 => dac15Of c
  | .m16 => dac16Of c
  | .m24 => dac24Of c
  | .m32 => dac32Of c

/-- The stages after the depth conversion: look-up table if selected, monochrome, level; none of them
in MODE8, whose palette path has had them (R312, R313, R320). -/
def finish (s : State) (mode : DacMode) (c : Rgba) : Rgba :=
  match mode with
  | .m8 => c
  | _ => level s (mono s (if s.P.dac.dacLut then lutColour s c else c))

/-- `DacConvert(raw)` in a given depth (R312). -/
def dacConvertIn (s : State) (mode : DacMode) (raw : BitVec 32) : Rgba :=
  dacOffOf s (finish s mode (depthColour s mode (presented s mode raw)))

/-- `DacLatch` then `DacConvert` under the current `P.dac_mode` (R211, R311, R312). -/
def dacStage (v : AttrValue) (s : State) : Res (Option Rgba × State) := do
  let mode ← dacModeOf s.P.dac.dacMode
  let r := dacLatchIn mode v s
  pure (r.1.map (dacConvertIn r.2 mode), r.2)

/-! ### Meanings -/

/-- Run a depth variant on the value in the stage registers: latch its bytes, and convert the raw
colour if one is complete (R311 to R319); the raw colour and the result stay in the stage registers
(log 4). The byte count and the format are the row's own, whatever `P.dac_mode` is, a reserved value included
(DESIGN CHOICE, log 4). -/
def runDepth (mode : DacMode) (s : State) : State :=
  let r := match s.pipe.val with
    | none => (none, s)
    | some v => dacLatchIn mode v s
  let raw := r.1.map (presented r.2 mode)
  r.2.setPipe { r.2.pipe with raw := raw, rgba := raw.map (depthColour r.2 mode) }

/-- Change the colour in the stage registers, if there is one: under any `P.dac_mode`, MODE8 included, and
whether or not `P` selects the row (DESIGN CHOICE, log 4). -/
def onColour (f : State → Rgba → Rgba) (s : State) : State :=
  s.setPipe { s.pipe with rgba := s.pipe.rgba.map (f s) }

/-- Return the luminance of the colour in the stage registers, if there is one. -/
def returnLum (f : State → Rgba → Byte) (s : State) : State :=
  match s.pipe.rgba with
  | none => s
  | some c => s.setResult (.byte (f s c))

/-- DAC.8 (R311, R313). -/
def execDac8 (s : State) : Out := .next (runDepth .m8 s)

/-- DAC.15 (R311, R314). -/
def execDac15 (s : State) : Out := .next (runDepth .m15 s)

/-- DAC.16 (R311, R316). -/
def execDac16 (s : State) : Out := .next (runDepth .m16 s)

/-- DAC.24 (R311, R317). -/
def execDac24 (s : State) : Out := .next (runDepth .m24 s)

/-- DAC.32 (R311, R319). -/
def execDac32 (s : State) : Out := .next (runDepth .m32 s)

/-- DAC.LUT (R321). -/
def execDacLut (s : State) : Out := .next (onColour lutColour s)

/-- DAC.SWAP (R315), on the raw colour in the stage registers; the byte count is that of `P.dac_mode`,
which it needs. -/
def execDacSwap (s : State) : Out :=
  outcome (do
    let mode ← dacModeOf s.P.dac.dacMode
    pure (s.setPipe { s.pipe with raw := s.pipe.raw.map (swapBytes · (need mode)) }))

/-- MONO.COLOUR (R323). -/
def execMonoColour (s : State) : Out := .next (onColour (monoIn · .colour) s)

/-- MONO.WHITE (R323). -/
def execMonoWhite (s : State) : Out := .next (onColour (monoIn · .white) s)

/-- MONO.GREEN (R323). -/
def execMonoGreen (s : State) : Out := .next (onColour (monoIn · .green) s)

/-- MONO.AMBER (R323). -/
def execMonoAmber (s : State) : Out := .next (onColour (monoIn · .amber) s)

/-- LUM.WEIGHTED (R322). -/
def execLumWeighted (s : State) : Out := .next (returnLum (fun s => lumWeightedOf s.par.lumW) s)

/-- LUM.UNWEIGHTED (R322). -/
def execLumUnweighted (s : State) : Out := .next (returnLum (fun _ => lumUnweightedOf) s)

/-- DAC.LEVEL (R324). -/
def execDacLevel (s : State) : Out := .next (onColour level s)

/-- DAC.OFF (R325). -/
def execDacOff (s : State) : Out := .next (onColour (fun _ _ => black) s)

end Sys2Proof.Machine
end

