-- ==== Sys2Proof/Machine/FrameOutput.lean ====
section
/-! DEFINITION. FrameOutput (`spec/47_frame_output.md`) and the operation OUT.PIXEL. -/

namespace Sys2Proof.Machine

/-- `at_pen`: the output coordinate is the pen's (R340, R343). -/
def atPen (s : State) : Bool := s.S.outX == s.S.penX && s.S.outY == s.S.penY

/-- `FrameOutput(rgba)` (R340, R341, R343). -/
def frameOutput (c : Rgba) (s : State) : State :=
  let s := s.emit (.pen s.S.lightpenAddr (atPen s))
  let s := if blanking s then s else s.emit (.pix s.S.outX s.S.outY c)
  s.setS { s.S with outX := s.S.outX + 1 }

/-- Whether an event reaches anything: "With no hook plugged in the event is discarded" (R343), which is
said of the light-pen event alone. -/
def delivered (par : Params) : Event → Bool
  | .pen _ _ => par.lightPen
  | _ => true

/-- The events that reach anything, newest first (R343, log 9). -/
def deliveredEvents (s : State) : List Event := s.events.filter (delivered s.par)

/-- OUT.PIXEL (R340): output the colour in the stage registers, if one is emitted. -/
def execOutPixel (s : State) : Out :=
  .next (match s.pipe.rgba with
    | none => s
    | some c => frameOutput c s)

end Sys2Proof.Machine
end

