-- ==== Sys2Proof/Machine/Sequencer.lean ====
section
/-! DEFINITION. The TimingSequencer (`spec/42_timing_sequencer.md`): the total handlers (R205, R207,
R208, R209), the render handlers (R211 to R213), the bounded signal loop (R201, R206), the tick, and
the operations TICK, BLANK.*, RETR.*, HTOTAL, VTOTAL and R.*. -/

namespace Sys2Proof.Machine

/-! ### The total handlers -/

/-- `TopWindow()` (R208). -/
def topWindow (s : State) : State :=
  let s := s.setS { s.S with memaddr := 0, rowscan := 0, charrow := 0, dblPhase := false }
  if s.P.attr.topwindowPanreset then s.setS { s.S with pixshift := 0, bytepan := 0 } else s

/-- The row scan steps; at the character's last row the character row and the memory address step
(R205). -/
def nextRowScan (s : State) : State :=
  if s.S.rowscan.toNat + 1 = s.P.crtc.charHeight.toNat then
    s.setS { s.S with
      dblPhase := false
      rowscan := 0
      charrow := s.S.charrow + 1
      memaddr := wrapAddr s.par (s.S.memaddr + s.P.crtc.rowSize.toNat) }
  else s.setS { s.S with dblPhase := false, rowscan := s.S.rowscan + 1 }

/-- What leaving an active-display row does: scanline, scan doubling, row scan, top window (R205, R208,
R209). A scanline count that wraps from 0xFFF to 0 meets a top-window start of 0, as R205's comparison has it,
where R208's prose says that 0 never matches (DEDUCED, log 23). -/
def leaveActiveRow (s : State) : State :=
  let s := s.setS { s.S with scanline := s.S.scanline + 1 }
  let s := if s.P.crtc.scandouble && !s.S.dblPhase then s.setS { s.S with dblPhase := true }
    else nextRowScan s
  if s.S.scanline = s.P.crtc.topwindowStart then topWindow s else s

/-- The per-scanline reset and the row step of `HTotal()` (R205). -/
def startScanline (s : State) : State :=
  s.setS { s.S with
    x := 0
    activePx := 0
    divPhase := 0
    charcol := 0
    outX := 0
    fetchValid := false
    dacCount := 0
    dacLatch := 0
    attrLatch := 0
    lastEmit := none
    y := s.S.y + 1
    outY := s.S.outY + 1 }

/-- `HTotal()` (R205). -/
def hTotal (s : State) : State :=
  if (vtabAt s s.S.y).getLsbD sigVActive then leaveActiveRow (startScanline s) else startScanline s

/-- `VTotal()` (R207). It leaves the per-scanline state alone, also where no `HTotal` ran in the same tick (DEDUCED,
log 32). -/
def vTotal (s : State) : State :=
  let start := wrapAddr s.par s.P.crtc.startAddress.toNat
  s.setS { s.S with
    y := 0
    outY := 0
    scanline := 0
    rowscan := 0
    dblPhase := false
    charrow := 0
    latStart := start
    latPixshift := s.P.attr.pixelShiftCount
    latBytepan := s.P.crtc.bytePanning
    memaddr := wrapAddr s.par (start + s.P.crtc.bytePanning.toNat)
    pixshift := s.P.attr.pixelShiftCount
    bytepan := s.P.crtc.bytePanning }

/-! ### The render handlers -/

/-- A reload tick: decode, attribute stage, DAC latch and conversion (R211). -/
def reload (s : State) : Res State := do
  let unit ← decodeUnit s
  let value ← resolve unit.1 unit.2
  let colour ← match value.1 with
    | none => pure (none, value.2)
    | some v => dacStage v value.2
  pure (colour.2.setS { colour.2.S with lastEmit := colour.1 })

/-- The output of an active tick: the last colour, if there is one (R211). It is the colour as the latest reload
tick converted it, also where DAC-off, the palette or the colour stages were written since, where R368 has every
output colour black (DEDUCED, log 27). -/
def showLast (s : State) : State :=
  match s.S.lastEmit with
  | none => s
  | some c => frameOutput c s

/-- `ActiveDisplay()` (R211). Whether it reloads is the phase's to say, also where `P.pixel_div` was written inside
a divider period (DEDUCED, log 30). -/
def activeDisplay (s : State) : Res State := do
  let modulus ← divisorOf s.P.clk.pixelDiv
  let s' ← if reloadNow s then reload s else .ok s
  pure (showLast (stepDivider modulus s'))

/-- `Overscan()` (R212). -/
def overscan (s : State) : State :=
  frameOutput (dacOffOf s (effective s s.P.attr.overscanIndex)) s

/-- `Dispatch(total_active, retrace_active, sig)` (R210). A position at or beyond one axis's total whose other
axis carries its overscan bit is overscan, by the key of R113 and R210, where the prose of R213, R341 and R396 calls
it unused (DEDUCED, log 24). -/
def dispatch (totalActive retraceActive : Bool) (sig : SigWord) (s : State) : Res State :=
  if totalActive || retraceActive then .ok s
  else if sig.getLsbD sigHActive && sig.getLsbD sigVActive then activeDisplay s
  else if sig.getLsbD sigHOverscan || sig.getLsbD sigVOverscan then .ok (overscan s)
  else .ok s

/-! ### The tick -/

/-- Whether a signal word carries a total bit (R201). -/
def totalBits (sig : SigWord) : Bool := sig.getLsbD sigHTotal || sig.getLsbD sigVTotal

/-- One evaluation of the signal: blanking, then retrace (R201, R203, R204). -/
def evaluate (s : State) : State := resolveRetrace (signal s) (resolveBlank (signal s) s)

/-- The total handlers a word selects, horizontal before vertical (R201, R215). -/
def runTotals (sig : SigWord) (s : State) : State :=
  onBit sig sigVTotal vTotal (onBit sig sigHTotal hTotal s)

/-- The bounded signal loop with `k` retries left: the last word evaluated, whether the bound was
exceeded, and the state (R201, R206). Each position is evaluated before its total handlers run, so that the boundary
bits of the total row and column act, a retrace start on the total row too, where R398 counts such a start as never
reached (DEDUCED, log 28). -/
def signalLoop : Nat → State → SigWord × Bool × State
  | 0, s =>
    if totalBits (signal s) then (signal s, true, (evaluate s).emit .diagRetry)
    else (signal s, false, evaluate s)
  | k + 1, s =>
    if totalBits (signal s) then signalLoop k (runTotals (signal s) (evaluate s))
    else (signal s, false, evaluate s)

/-- The column counter steps (R214). -/
def advanceColumn (s : State) : State := s.setS { s.S with x := s.S.x + 1 }

/-- `Tick()` (R201). -/
def tick (s : State) : Res State := do
  let r := signalLoop Config.retryBound s
  let s' ← dispatch r.2.1 (retracing r.2.2) r.1 r.2.2
  pure (advanceColumn s')

/-- `ADVANCE(N)`: N ticks back to back (R147). -/
def ticks : Nat → State → Res State
  | 0, s => .ok s
  | n + 1, s => do
    let s' ← tick s
    ticks n s'

/-! ### Meanings -/

/-- TICK (R201). -/
def execTick (s : State) : Out := outcome (tick s)

/-- ADVANCE (R147). -/
def execAdvance (n : BitVec 32) (s : State) : Out := outcome (ticks n.toNat s)

/-- BLANK.HS (R203). -/
def execBlankHs (s : State) : Out := .next (hBlankStart s)

/-- BLANK.HE (R203). -/
def execBlankHe (s : State) : Out := .next (hBlankEnd s)

/-- BLANK.VS (R203). -/
def execBlankVs (s : State) : Out := .next (vBlankStart s)

/-- BLANK.VE (R203). -/
def execBlankVe (s : State) : Out := .next (vBlankEnd s)

/-- RETR.HS (R204). -/
def execRetrHs (s : State) : Out := .next (hRetraceStart s)

/-- RETR.HE (R204). -/
def execRetrHe (s : State) : Out := .next (hRetraceEnd s)

/-- RETR.VS (R204). -/
def execRetrVs (s : State) : Out := .next (vRetraceStart s)

/-- RETR.VE (R204). -/
def execRetrVe (s : State) : Out := .next (vRetraceEnd s)

/-- HTOTAL (R205). -/
def execHtotal (s : State) : Out := .next (hTotal s)

/-- VTOTAL (R207). -/
def execVtotal (s : State) : Out := .next (vTotal s)

/-- R.ACTIVE (R211). -/
def execRActive (s : State) : Out := outcome (activeDisplay s)

/-- R.OVERSCAN, selected by the horizontal bit (R212). -/
def execROverscanH (s : State) : Out := .next (overscan s)

/-- R.OVERSCAN, selected by the vertical bit (R212). -/
def execROverscanV (s : State) : Out := .next (overscan s)

/-- R.NOP: changes nothing and emits nothing (R213). -/
def execRNop (s : State) : Out := .next s

end Sys2Proof.Machine
end

