-- ==== Sys2Proof/Machine/HostOps.lean ====
section
/-! DEFINITION. The host operations (`spec/40_host_operations.md`): RESET, WRREG, RDREG, RECALC,
WAITVBL, VWRITE, VREAD, PENPOS and the five DAC register rows. (ADVANCE stands beside the tick it
repeats, PADEC beside the strategies it queries.) -/

namespace Sys2Proof.Machine

/-! ### Registers -/

/-- The write itself, after the validity check and the guard (R141, R161 to R163). -/
def storeRegister (sec idx val : Byte) (s : State) : State :=
  if sec = secDac ∧ idx = 0x01 then
    (s.setDacs { s.dacs with ridx := val, rsub := 0 }).setReg (s.reg.write (regKey secDac 0x01) val)
  else if sec = secDac ∧ idx = 0x02 then
    (s.setDacs { s.dacs with widx := val, wsub := 0 }).setReg (s.reg.write (regKey secDac 0x02) val)
  else if sec = secDac ∧ idx = 0x03 then dacWriteData val s
  else s.setReg (s.reg.write (regKey sec idx) (val &&& definedMask s.par.dacBits sec idx))

/-- Whether a write is applied: the index is valid and the field is not protected (R141, R42). -/
def writeApplies (sec idx : Byte) (s : State) : Bool :=
  validIndex sec idx && !(isProtected sec idx && timingGuard s.reg)

/-- `WRREG(sec, idx, val)` (R141). -/
def writeRegister (sec idx val : Byte) (s : State) : State :=
  if writeApplies sec idx s then
    (recompute (.register sec idx) (storeRegister sec idx val s)).setResult (.applied true)
  else s.setResult (.applied false)

/-- `RDREG(sec, idx)` (R143). A section above 5 reads `UNDEFINED_READ` too, where X7 of R350 and U2 say 0xFF
(DEDUCED, log 25). -/
def readRegister (sec idx : Byte) (s : State) : State :=
  if validIndex sec idx then
    if sec = secDac ∧ idx = 0x01 then s.setResult (.byte s.dacs.ridx)
    else if sec = secDac ∧ idx = 0x02 then s.setResult (.byte s.dacs.widx)
    else if sec = secDac ∧ idx = 0x03 then dacReadData s
    else s.setResult (.byte (regAt s.reg sec idx))
  else s.setResult (.byte s.par.undefinedRead)

/-! ### WAITVBL -/

/-- Step "begin": the flag is cleared, the caller waits (R150, log 2). A flag that another caller's poll has not yet
seen is cleared with it (DEDUCED, log 33). -/
def beginWait (s : State) : State :=
  (s.setS { s.S with vblankFlag := false }).setWaiters (s.actor :: s.waiters)

/-- Step "poll": the caller is released if the flag is set; the flag stays (R150, log 2). -/
def pollWait (s : State) : State :=
  if s.S.vblankFlag then s.setWaiters (s.waiters.filter (· != s.actor)) else s

/-- Whether the actor that holds the lock is inside WAITVBL. -/
def waiting (s : State) : Bool := s.waiters.contains s.actor

/-! ### RESET -/

/-- The device state RESET puts (R380); VRAM, parameters and hooks are not written, nothing is emitted,
and what belongs to the callers stays (log 3). A plugged-in extension hook is not called: `P` is `Derive(REG)` with the
values of R380, where R173, as R185 reads it, has `P = Ext(Derive(REG))` between any two operations (DEDUCED,
log 35). -/
def resetDevice (s : State) : State :=
  ((((((s.setReg []).setP Precalc.reset).setTables none none).setS Runtime.reset).setPal []).setDacs
    ⟨0, 0, 0, 0⟩).setPipe Pipe.empty

/-! ### Meanings -/

/-- RESET (R140, R380). -/
def execReset (s : State) : Out := .next (resetDevice s)

/-- WRREG (R141). -/
def execWrreg (sec idx val : Byte) (s : State) : Out := .next (writeRegister sec idx val s)

/-- RDREG (R143). -/
def execRdreg (sec idx : Byte) (s : State) : Out := .next (readRegister sec idx s)

/-- RECALC (R145). -/
def execRecalc (sec idx : Byte) (whole : Bool) (s : State) : Out :=
  .next (match recalcTag sec idx whole with
    | none => s
    | some t => recompute t s)

/-- WAITVBL: its first step begins the wait, each further step of the same caller polls (R150). -/
def execWaitvbl (s : State) : Out := .next (if waiting s then pollWait s else beginWait s)

/-- VWRITE (R152). -/
def execVwrite (plane val : Byte) (off : BitVec 32) (s : State) : Out :=
  .next (if plane.toNat ≤ 3 then planeWrite plane.toNat off.toNat val s else s)

/-- VREAD (R153). -/
def execVread (plane : Byte) (off : BitVec 32) (s : State) : Out :=
  .next (s.setResult (.byte
    (if plane.toNat ≤ 3 then planeRead s plane.toNat off.toNat else Config.floatingBus)))

/-- PENPOS (R155). -/
def execPenpos (x : BitVec 15) (y : BitVec 12) (s : State) : Out :=
  .next (s.setS { s.S with penX := x, penY := y })

/-- DACMASK (R160). -/
def execDacmask (val : Byte) (s : State) : Out := .next (writeRegister secDac 0x00 val s)

/-- DACRIDX (R161). -/
def execDacridx (val : Byte) (s : State) : Out := .next (writeRegister secDac 0x01 val s)

/-- DACWIDX (R162). -/
def execDacwidx (val : Byte) (s : State) : Out := .next (writeRegister secDac 0x02 val s)

/-- DACWDATA (R163). -/
def execDacwdata (val : Byte) (s : State) : Out := .next (writeRegister secDac 0x03 val s)

/-- DACRDATA (R164). -/
def execDacrdata (s : State) : Out := .next (readRegister secDac 0x03 s)

end Sys2Proof.Machine
end

