-- ==== Sys2Proof/Machine/Dispatch.lean ====
section
/-! DEFINITION. One arm per operation of `spec/opcode_table.json`, each one direct call of its meaning. -/

namespace Sys2Proof.Machine

def exec (i : Instr) (s : State) : Host.Outcome State Fault Refusal :=
  match i with
  | .reset => Sys2Proof.Machine.execReset s
  | .wrreg sec idx val => Sys2Proof.Machine.execWrreg sec idx val s
  | .rdreg sec idx => Sys2Proof.Machine.execRdreg sec idx s
  | .recalc sec idx whole => Sys2Proof.Machine.execRecalc sec idx whole s
  | .advance n => Sys2Proof.Machine.execAdvance n s
  | .waitvbl => Sys2Proof.Machine.execWaitvbl s
  | .vwrite plane val off => Sys2Proof.Machine.execVwrite plane val off s
  | .vread plane off => Sys2Proof.Machine.execVread plane off s
  | .padec write addr => Sys2Proof.Machine.execPadec write addr s
  | .penpos x y => Sys2Proof.Machine.execPenpos x y s
  | .dacmask val => Sys2Proof.Machine.execDacmask val s
  | .dacridx val => Sys2Proof.Machine.execDacridx val s
  | .dacwidx val => Sys2Proof.Machine.execDacwidx val s
  | .dacwdata val => Sys2Proof.Machine.execDacwdata val s
  | .dacrdata => Sys2Proof.Machine.execDacrdata s
  | .tick => Sys2Proof.Machine.execTick s
  | .blankHs => Sys2Proof.Machine.execBlankHs s
  | .blankHe => Sys2Proof.Machine.execBlankHe s
  | .blankVs => Sys2Proof.Machine.execBlankVs s
  | .blankVe => Sys2Proof.Machine.execBlankVe s
  | .retrHs => Sys2Proof.Machine.execRetrHs s
  | .retrHe => Sys2Proof.Machine.execRetrHe s
  | .retrVs => Sys2Proof.Machine.execRetrVs s
  | .retrVe => Sys2Proof.Machine.execRetrVe s
  | .htotal => Sys2Proof.Machine.execHtotal s
  | .vtotal => Sys2Proof.Machine.execVtotal s
  | .rActive => Sys2Proof.Machine.execRActive s
  | .rOverscanH => Sys2Proof.Machine.execROverscanH s
  | .rOverscanV => Sys2Proof.Machine.execROverscanV s
  | .rNop => Sys2Proof.Machine.execRNop s
  | .decText char9 lineGraphics char16 => Sys2Proof.Machine.execDecText char9 lineGraphics char16 s
  | .decPlanar => Sys2Proof.Machine.execDecPlanar s
  | .decPacked => Sys2Proof.Machine.execDecPacked s
  | .decShift256 => Sys2Proof.Machine.execDecShift256 s
  | .divFull => Sys2Proof.Machine.execDivFull s
  | .divHalf => Sys2Proof.Machine.execDivHalf s
  | .divQuarter => Sys2Proof.Machine.execDivQuarter s
  | .xltByte addr => Sys2Proof.Machine.execXltByte addr s
  | .xltWord wrapSel addr => Sys2Proof.Machine.execXltWord wrapSel addr s
  | .xltDword addr => Sys2Proof.Machine.execXltDword addr s
  | .attr4 => Sys2Proof.Machine.execAttr4 s
  | .attr8 => Sys2Proof.Machine.execAttr8 s
  | .attr16 => Sys2Proof.Machine.execAttr16 s
  | .dac8 => Sys2Proof.Machine.execDac8 s
  | .dac15 => Sys2Proof.Machine.execDac15 s
  | .dac16 => Sys2Proof.Machine.execDac16 s
  | .dac24 => Sys2Proof.Machine.execDac24 s
  | .dac32 => Sys2Proof.Machine.execDac32 s
  | .dacLut => Sys2Proof.Machine.execDacLut s
  | .dacSwap => Sys2Proof.Machine.execDacSwap s
  | .monoColour => Sys2Proof.Machine.execMonoColour s
  | .monoWhite => Sys2Proof.Machine.execMonoWhite s
  | .monoGreen => Sys2Proof.Machine.execMonoGreen s
  | .monoAmber => Sys2Proof.Machine.execMonoAmber s
  | .lumWeighted => Sys2Proof.Machine.execLumWeighted s
  | .lumUnweighted => Sys2Proof.Machine.execLumUnweighted s
  | .dacLevel => Sys2Proof.Machine.execDacLevel s
  | .dacOff => Sys2Proof.Machine.execDacOff s
  | .paPlanarR addr => Sys2Proof.Machine.execPaPlanarR addr s
  | .paPlanarW addr => Sys2Proof.Machine.execPaPlanarW addr s
  | .paChain4R addr => Sys2Proof.Machine.execPaChain4R addr s
  | .paChain4W addr => Sys2Proof.Machine.execPaChain4W addr s
  | .paOddevenR wrapSel addr => Sys2Proof.Machine.execPaOddevenR wrapSel addr s
  | .paOddevenW wrapSel addr => Sys2Proof.Machine.execPaOddevenW wrapSel addr s
  | .paLinearR addr => Sys2Proof.Machine.execPaLinearR addr s
  | .paLinearW addr => Sys2Proof.Machine.execPaLinearW addr s
  | .outPixel => Sys2Proof.Machine.execOutPixel s

end Sys2Proof.Machine
end

