-- ==== Sys2Proof/Machine/Schedule.lean ====
section
/-! DEFINITION. Taking turns: which request of the schedule runs next (R95, R102, R150, U17, log 1,
log 2) and how a bare table word is placed where the next step finds it. -/

namespace Sys2Proof.Machine

/-- A caller inside WAITVBL whose poll would not succeed; it takes the lock only to poll (R150). -/
def blocked (s : State) (r : Request) : Bool :=
  s.waiters.contains r.actor && !s.S.vblankFlag && r.issue != .poll

/-- The first request not blocked, and the schedule without it. -/
def pick (s : State) : List Request → Option (Request × List Request)
  | [] => none
  | r :: rest =>
    if blocked s r then (pick s rest).map fun p => (p.1, r :: p.2) else some (r, rest)

/-- The next turn of the schedule. -/
def nextTurn (s : State) : Option (Request × List Request) := pick s s.queue

/-- A turn of a caller inside WAITVBL is a poll; a request other than a poll stays in the schedule
until the wait is over (R150). -/
def pollTurn (s : State) (r : Request) (rest : List Request) : Out :=
  exec .waitvbl (s.takeTurn r.actor (if r.issue = .poll then rest else s.queue))

/-- A turn of any other caller: run the operation its word stands for. Unmapped ports and unselected
units are dropped (R119); a reserved selector is refused (U3). -/
def runTurn (s : State) (r : Request) (rest : List Request) : Out :=
  match decode r.issue with
  | .ok i => exec i (s.takeTurn r.actor rest)
  | .error (.reserved sel) => .refused (.reservedSelector sel)
  | .error _ => .next (s.takeTurn r.actor rest)

/-- One turn of the schedule. With nothing requested, or every caller blocked, nothing changes: a poll
that does not succeed only reads (R150). -/
def takeNext (s : State) : Out :=
  match nextTurn s with
  | none => .next s
  | some (r, rest) =>
    if s.waiters.contains r.actor then pollTurn s r rest else runTurn s r rest

/-- An actor that is not inside WAITVBL. -/
def freeActor (s : State) : Nat := s.waiters.foldr (fun a m => max (a + 1) m) 0

/-- Put an issue at the head of the schedule, from a caller that is not waiting. -/
def issueFirst (s : State) (i : Issue) : State := { s with queue := ⟨freeActor s, i⟩ :: s.queue }

end Sys2Proof.Machine
end

