-- ==== Sys2Proof/Machine/Step.lean ====
section
/-! DEFINITION. One step of the device: one turn of the schedule (R95). -/

namespace Sys2Proof.Machine

/-- One step. -/
def step (s : State) : Host.Outcome State Fault Refusal := takeNext s

/-- The state whose next step fetches and runs the instruction of a bare table word (log 1, log 5). -/
def State.withFetchWord (s : State) (nbits w : Nat) : State := issueFirst s (tableIssue nbits w)

end Sys2Proof.Machine
end

