-- ==== Sys2Proof/Safety.lean ====
section
/-! DEFINITION. What counts as a safe run, and the properties of states that claims speak of. There is
no fault to be safe from (R350); a run is safe while every step has a next state, which is as long as
no reserved selector is in use (R52, U3). -/

namespace Sys2Proof.Machine

/-- No selector holds a reserved value (R52). -/
def SelectorsLegal (p : Precalc) : Bool :=
  p.crtc.addrMode != 3 && p.clk.pixelDiv != 3 && p.gfx.shiftMode != 3 && p.attr.attrMode != 3 &&
    p.attr.textBlinkSel != 3 && p.attr.cursorBlinkSel != 3 && decide (p.dac.dacMode.toNat ≤ 4)

/-- An answer that has a next state. -/
def Answers (o : Out) : Prop := ∃ t, o = .next t

/-- Only the runtime registers and the event list differ, and events were only added. -/
def RuntimeOnly (s t : State) : Prop :=
  { t with S := s.S, events := s.events } = s ∧ ∃ new, t.events = new ++ s.events

/-- The three stores are in canonical form. -/
def Canonical (s : State) : Prop := s.reg.wf = true ∧ s.pal.wf = true ∧ s.vram.wf = true

/-- `P = Derive(REG)` (R173). -/
def PrecalcCurrent (s : State) : Prop := s.P = derive s.reg

/-- The tables are all zero or the build from the current `P` (R178). -/
def TablesCurrent (s : State) : Prop :=
  (s.htab = none ∧ s.vtab = none) ∨ (s.htab = some s.P.h ∧ s.vtab = some s.P.v)

/-- No native register holds a bit outside its `DefinedMask`, and no other index is stored (R142). -/
def RegistersMasked (s : State) : Prop :=
  ∀ sec idx : Byte,
    if validIndex sec idx then regAt s.reg sec idx &&& definedMask s.par.dacBits sec idx = regAt s.reg sec idx
    else regAt s.reg sec idx = 0

/-- Palette components have `DAC_BITS` bits and the access counters run over 0, 1, 2 (R47, R57). -/
def PaletteInWidth (s : State) : Prop :=
  (∀ k, s.pal.read k &&& dacMaskOf s.par.dacBits = s.pal.read k) ∧ s.dacs.wsub ≠ 3 ∧ s.dacs.rsub ≠ 3

/-- `S.out_y = S.y` (R342), and the CRTC addresses held have `MEMADDR_BITS` bits (R30). -/
def CountersInStep (s : State) : Prop :=
  s.S.outY = s.S.y ∧ s.S.memaddr < 2 ^ s.par.memaddrBits ∧ s.S.latStart < 2 ^ s.par.memaddrBits ∧
    s.S.cellAddr < 2 ^ s.par.memaddrBits

/-- Both tables are built, with totals of at least 1, from these breakpoints. -/
def BuiltFrom (s : State) (h : Breakpoints 15) (v : Breakpoints 12) : Prop :=
  s.htab = some h ∧ s.vtab = some v ∧ h.total ≠ 0 ∧ v.total ≠ 0

/-- Inside the torus as a tick leaves it: columns 1 to the total, rows 0 to the total less 1 (R219). -/
def InTorus (s : State) (h : Breakpoints 15) (v : Breakpoints 12) : Prop :=
  1 ≤ s.S.x.toNat ∧ s.S.x.toNat ≤ h.total.toNat ∧ s.S.y.toNat < v.total.toNat

/-- Two states that differ at most in the register file and in the three values the frame latches are
loaded from (R217). -/
def SameButLatchSources (s s' : State) : Prop :=
  s' = { s with
    reg := s'.reg
    P := { s.P with
      crtc := { s.P.crtc with startAddress := s'.P.crtc.startAddress, bytePanning := s'.P.crtc.bytePanning }
      attr := { s.P.attr with pixelShiftCount := s'.P.attr.pixelShiftCount } } }

/-- What one evaluation of the signal at the current position leaves: each latch cleared by its end bit, else
set by its start bit, else as it was; and the frame boundary on the 0 to 1 edge of the vertical retrace latch
(R203, R204). -/
def resolved (s : State) : State :=
  let h := htabAt s s.S.x
  let v := vtabAt s s.S.y
  let edge := v.getLsbD 9 && !s.S.vretrace
  { s with
    S := { s.S with
      hblank := if h.getLsbD 4 then false else if h.getLsbD 3 then true else s.S.hblank
      vblank := if v.getLsbD 12 then false else if v.getLsbD 11 then true else s.S.vblank
      hretrace := if h.getLsbD 2 then false else if h.getLsbD 1 then true else s.S.hretrace
      vretrace := if v.getLsbD 10 then false else if v.getLsbD 9 then true else s.S.vretrace
      vblankFlag := if edge then true else s.S.vblankFlag
      frameCtr := if edge then s.S.frameCtr + 1 else s.S.frameCtr }
    events := if edge then .frame :: s.events else s.events }

/-- The current position carries a total bit (R112, R201). -/
def totalHere (s : State) : Bool := (htabAt s s.S.x).getLsbD 0 || (vtabAt s s.S.y).getLsbD 8

/-- `u` is what one evaluation and the total handlers that the position selects, HTOTAL before VTOTAL, leave
of `s` (R201, R215). -/
def TotalsRun (s u : State) : Prop :=
  ∃ w, (if (htabAt s s.S.x).getLsbD 0 then exec .htotal (resolved s) = .next w else w = resolved s) ∧
    (if (vtabAt s s.S.y).getLsbD 8 then exec .vtotal w = .next u else u = w)

/-- The render row of the current position (R113, R210): overscan also beyond one axis's total where the other
axis says overscan (log 24). -/
def renderRow (s : State) : Instr :=
  if s.S.hretrace || s.S.vretrace then .rNop
  else if (htabAt s s.S.x).getLsbD 5 && (vtabAt s s.S.y).getLsbD 13 then .rActive
  else if (htabAt s s.S.x).getLsbD 6 then .rOverscanH
  else if (vtabAt s s.S.y).getLsbD 14 then .rOverscanV
  else .rNop

/-- A row between the vertical retrace start and its end, counted on past the last row (R204). -/
def RetraceRow (v : Breakpoints 12) (y : BitVec 12) : Prop :=
  if v.retraceStart < v.retraceEnd then v.retraceStart ≤ y ∧ y < v.retraceEnd
  else v.retraceStart ≤ y ∨ y < v.retraceEnd

/-- The vertical retrace starts and ends on two different rows of the frame, and its latch stands as it does
on the current row of a running frame (R204, R219). -/
def RetraceInStep (s : State) (v : Breakpoints 12) : Prop :=
  v.retraceStart < v.total ∧ v.retraceEnd < v.total ∧ v.retraceStart ≠ v.retraceEnd ∧
    (s.S.vretrace = true ↔ RetraceRow v s.S.y)

/-- No row that one tick can reach carries V_TOTAL: the current one and the next `RETRY_BOUND`. -/
def NoVTotalAhead (s : State) : Prop :=
  ∀ k, k ≤ Config.retryBound → (vtabAt s (s.S.y + BitVec.ofNat 12 k)).getLsbD sigVTotal = false

/-- Run operations one after another, collecting the result of each. -/
def runOps : List Instr → State → Res (State × List Result)
  | [], s => .ok (s, [])
  | i :: is, s =>
    match exec i s with
    | .next t => do
      let r ← runOps is t
      pure (r.1, t.result :: r.2)
    | .refused r => .error r
    | .fault f => nomatch f

/-- Bits of a host operation word that an operation uses (R110, R111, R115, R154, R155). -/
def hopUsed (op : Byte) : HopWord :=
  match op.toNat with
  | 0x01 => 0x00FFFFFF00000000
  | 0x02 => 0x00FFFF0000000000
  | 0x03 => 0x00FFFF0100000000
  | 0x04 => 0x00000000FFFFFFFF
  | 0x06 => 0x00FF00FFFFFFFFFF
  | 0x07 => 0x00FF0000FFFFFFFF
  | 0x08 => 0x00010000FFFFFFFF
  | 0x09 => 0x000000000FFF7FFF
  | _ => 0

/-- The decode variant the selectors choose (R114). -/
def decodeVariant (p : Precalc) : Instr :=
  if p.gfx.textMode then .decText p.clk.char9 p.attr.lineGraphics p.mem.char16
  else if p.gfx.shiftMode = 0 then .decPlanar
  else if p.gfx.shiftMode = 1 then .decPacked
  else .decShift256

/-- The attribute variant (R114). -/
def attrVariant (p : Precalc) : Instr :=
  if p.attr.attrMode = 0 then .attr4 else if p.attr.attrMode = 1 then .attr8 else .attr16

/-- The depth variant (R114). -/
def depthVariant (p : Precalc) : Instr :=
  if p.dac.dacMode = 0 then .dac8
  else if p.dac.dacMode = 1 then .dac15
  else if p.dac.dacMode = 2 then .dac16
  else if p.dac.dacMode = 3 then .dac24
  else .dac32

/-- The monochrome variant (R114). -/
def monoVariant (p : Precalc) : Instr :=
  if p.dac.monoMode = 0 then .monoColour
  else if p.dac.monoMode = 1 then .monoWhite
  else if p.dac.monoMode = 2 then .monoGreen
  else .monoAmber

/-- An operation where its selector bit is set, and none where it is not. -/
def optionally (b : Bool) (i : Instr) : List Instr := if b then [i] else []

/-- The variants between the depth conversion and DAC.OFF: none in MODE8, whose palette path has had
them (R312, R313, R320). -/
def tailVariants (p : Precalc) : List Instr :=
  if p.dac.dacMode = 0 then [] else optionally p.dac.dacLut .dacLut ++ [monoVariant p, .dacLevel]

/-- The stage variants a reload tick runs under the current selectors, in the order of R117. -/
def stageList (p : Precalc) : List Instr :=
  [decodeVariant p, attrVariant p, depthVariant p] ++ tailVariants p ++
    (optionally p.dac.dacOff .dacOff ++ [.outPixel])

/-- Operations that may write the register file or the palette (R20): RESET and the register writes. -/
def writesRegisters : Instr → Bool
  | .reset | .wrreg _ _ _ | .dacmask _ | .dacridx _ | .dacwidx _ | .dacwdata _ => true
  | _ => false

/-- Operations that may write `P` or the timing tables (R20): those and RECALC. -/
def writesPrecalc : Instr → Bool
  | .recalc _ _ _ => true
  | i => writesRegisters i

/-- Operations that may step a palette counter (R92): those and a read of DAC_DATA. -/
def stepsPalette : Instr → Bool
  | .dacrdata => true
  | .rdreg sec idx => sec == 5 && idx == 3
  | i => writesRegisters i

/-- Operations that may write VRAM (R70): VWRITE. -/
def writesVram : Instr → Bool
  | .vwrite _ _ _ => true
  | _ => false

/-- Operations that may write the runtime registers (R20): RESET, TICK, ADVANCE and the rows of a tick that
do more than compute, PENPOS, WAITVBL, and whatever recomputes `P` (R182). -/
def writesRuntime : Instr → Bool
  | .advance _ | .waitvbl | .penpos _ _ | .tick
  | .blankHs | .blankHe | .blankVs | .blankVe | .retrHs | .retrHe | .retrVs | .retrVe | .htotal | .vtotal
  | .rActive | .rOverscanH | .rOverscanV
  | .decText _ _ _ | .decPlanar | .decPacked | .decShift256 | .divFull | .divHalf | .divQuarter
  | .attr8 | .attr16 | .dac8 | .dac15 | .dac16 | .dac24 | .dac32 | .outPixel => true
  | i => writesPrecalc i

/-- Operations that write the pen fields (R20, R155). -/
def writesPen : Instr → Bool
  | .reset | .penpos _ _ => true
  | _ => false

/-- Operations that write the decoded unit (R20): the decode stage, and RESET. -/
def writesUnit : Instr → Bool
  | .reset | .decText _ _ _ | .decPlanar | .decPacked | .decShift256 => true
  | _ => false

/-- The plane offset of a CRTC address in an address mode, before the hook: BYTE, WORD, DWORD (R276). -/
def modeOffset (m : Nat) (mode : BitVec 2) (wrap : Bool) (a : Nat) : Nat :=
  if mode = 0 then a
  else if mode = 1 then a * 2 % 2 ^ m + a / 2 ^ (if wrap then 15 else 13) % 2
  else a * 4 % 2 ^ m + a / 2 ^ 12 % 4

/-- `ai.size` that an attribute-mode field stands for (R63). -/
def sizeFor (m : BitVec 2) : AttrSize := if m = 0 then .bits4 else if m = 1 then .bits8 else .bits16

/-- The fetch group of the next unit, for groups of `n` units (R242, R243, R249). -/
def unitGroup (s : State) (n : Nat) : BitVec 15 := BitVec.ofNat 15 ((unitIndex s).toNat / n)

/-- The next unit's place in its group (R243, R249). -/
def unitInGroup (s : State) (n : Nat) : Nat := (unitIndex s).toNat % n

/-- The CRTC address of the next unit's group (R243, R249). -/
def unitAddr (s : State) (n : Nat) : Nat := (s.S.memaddr + (unitGroup s n).toNat) % 2 ^ s.par.memaddrBits

/-- The fetch registers hold the group of the next unit (R243, R249). -/
abbrev Held (s : State) (n : Nat) : Prop := s.S.fetchValid = true ∧ s.S.fetchGroup = unitGroup s n

/-- The runtime registers after a unit of a group already held is counted (R242). -/
def heldRuntime (s : State) : Runtime := { s.S with activePx := s.S.activePx + 1 }

/-- The runtime registers after a graphics fetch at a plane offset (R249). -/
def graphicsRuntime (s : State) (n off : Nat) : Runtime :=
  { heldRuntime s with
    shiftreg := fetchDword s off
    fetchGroup := unitGroup s n
    fetchValid := true
    charcol := unitGroup s n
    lightpenAddr := BitVec.ofNat 32 off }

/-- What the decode variant leaves in the fetch registers: as they were where they hold the group, else
the fetch (R249). -/
def graphicsAfter (s : State) (n off : Nat) : Runtime :=
  if Held s n then heldRuntime s else graphicsRuntime s n off

/-- Bit `k` of a dword as a number. -/
def bitNat (d : BitVec 32) (k : Nat) : Nat := (d.getLsbD k).toNat

/-- `cw` of DEC.TEXT's operand `char9` (R243, R114). -/
def dotsOf (char9 : Bool) : Nat := if char9 then 9 else 8

/-- The character code a cell fetch gives (R243, R244). -/
def fetchedChar (s : State) (char16 : Bool) (off : Nat) : BitVec 16 :=
  (if char16 then planeRead s 2 off else 0) ++ planeRead s 0 off

/-- The attribute a cell fetch gives (R243, R244). -/
def fetchedAttr (s : State) (char16 : Bool) (off : Nat) : BitVec 16 :=
  (if char16 then planeRead s 3 off else 0) ++ planeRead s 1 off

/-- The runtime registers after a cell fetch at a plane offset (R243, R245). -/
def textRuntime (s : State) (n : Nat) (char16 : Bool) (off : Nat) : Runtime :=
  { heldRuntime s with
    cellChar := fetchedChar s char16 off
    cellAttr := fetchedAttr s char16 off
    cellFont := planeRead s 2
      ((if (fetchedAttr s char16 off).getLsbD 3 then s.P.mem.fontBase1 else s.P.mem.fontBase0).toNat +
        s.par.glyphStride * (fetchedChar s char16 off).toNat + s.S.rowscan.toNat)
    cellAddr := unitAddr s n
    fetchGroup := unitGroup s n
    fetchValid := true
    charcol := unitGroup s n
    lightpenAddr := BitVec.ofNat 32 off }

/-- What DEC.TEXT leaves in the runtime registers (R243). -/
def textAfter (s : State) (n : Nat) (char16 : Bool) (off : Nat) : Runtime :=
  if Held s n then heldRuntime s else textRuntime s n char16 off

/-- The font bit of dot `icol` from the fetch registers `r`, before the cursor (R246). -/
def dotBit (par : Params) (lineGraphics : Bool) (r : Runtime) (icol : Nat) : Prop :=
  if icol < 8 then r.cellFont.getLsbD (7 - icol) = true
  else lineGraphics = true ∧ par.lineGfxLo.toNat ≤ r.cellChar.toNat ∧ r.cellChar.toNat ≤ par.lineGfxHi.toNat ∧
    r.cellFont.getLsbD 0 = true

/-- The cell in the fetch registers `r` is the cursor's, on a row of its shape (R247). -/
def cursorShape (p : Precalc) (r : Runtime) : Prop :=
  p.crtc.cursorEnable = true ∧ r.cellAddr = p.crtc.cursorLocation.toNat ∧
    p.crtc.cursorStart.toNat ≤ r.rowscan.toNat ∧ r.rowscan.toNat ≤ p.crtc.cursorEnd.toNat

/-- `CursorHere()` on the fetch registers `r` (R247, R27). -/
def cursorAt (p : Precalc) (r : Runtime) : Prop :=
  cursorShape p r ∧ r.frameCtr.getLsbD (3 + p.attr.cursorBlinkSel.toNat) = false

/-- The lookup of a unit depends on the text blink phase: text mode, blink enabled, bit 7 set (R292). -/
def NeedsTextBlink (p : Precalc) (ai : AttrInfo) : Prop :=
  p.gfx.textMode = true ∧ p.attr.blinkEnable = true ∧ ai.attr.getLsbD 7 = true

/-- `TextBlinkOn` (R27). -/
def textPhase (s : State) : Bool := !s.S.frameCtr.getLsbD (3 + s.P.attr.textBlinkSel.toNat)

/-- The table entry the attribute variants look up (R291). -/
def entryOf (s : State) (ai : AttrInfo) : Byte :=
  attrEntry s.par s.P (ai.attr.extractLsb' 0 8) ai.font (textPhase s) s.S.rowscan

/-- The direct-colour depths with the operations that convert them (R314, R316, R317, R319). -/
def directDepths : List (DacMode × Instr) :=
  [(.m15, .dac15), (.m16, .dac16), (.m24, .dac24), (.m32, .dac32)]

/-- The byte latch after one byte, for a depth of `n` bytes (R311). -/
def latchAfter (n : Nat) (latch : BitVec 32) (b : Byte) : BitVec 32 :=
  BitVec.ofNat 32 (((latch.toNat / 2 ^ 8) ||| (b.toNat * 2 ^ (8 * (n - 1)))) % 2 ^ (8 * n))

/-- The field of a pixel `c` that starts at bit `lo`, `w` bits wide, widened to 8 bits by repeating its
high bits (R314, R316). -/
def widened (c : BitVec 32) (lo w : Nat) : Nat :=
  let f := c.toNat / 2 ^ lo % 2 ^ w
  f * 2 ^ (8 - w) + f / 2 ^ (2 * w - 8)

end Sys2Proof.Machine
end

