-- ==== Sys2Proof/Certificates/Slice0/Obligations.lean ====
section
/-! DEFINITION. The statements for the provers. Each docstring names the rules of spec/ it rests on. -/

section

open Sys2Proof Sys2Proof.Machine

/-! ### Encodings -/

/-- R110 to R116: the encoder and the decoder agree: every well-formed operation decodes from its encoding,
and every word that decodes gives a well-formed operation. -/
def Obligations.DecodeAndEncodeAgree : Prop :=
  (∀ i : Instr, i.wf = true → decode (encode i) = .ok i) ∧
  (∀ (w : Issue) (i : Instr), decode w = .ok i → i.wf = true)

/-- R110, R155: the bits an operation does not use are ignored on decode. -/
def Obligations.UnusedBitsIgnored : Prop :=
  ∀ w w' : HopWord, hopOp w = hopOp w' → w &&& hopUsed (hopOp w) = w' &&& hopUsed (hopOp w) →
    decode (.hop w) = decode (.hop w')

/-- R110 to R116, R121: words written out from the encoding tables. -/
def Obligations.DecodesSpecWords : Prop :=
  decode (.hop 0x01010C0600000000) = .ok (.wrreg 1 0x0C 6) ∧
  decode (.hop 0x0400000000000120) = .ok (.advance 288) ∧
  decode (.hop 0x0602005500000100) = .ok (.vwrite 2 0x55 0x0100) ∧
  decode (.hop 0x0900000000010003) = .ok (.penpos 3 1) ∧
  decode (.hop 0x0205030000000000) = .ok .dacrdata ∧
  decode (.sig .render 0 0x2020) = .ok .rActive ∧
  decode (.sig .render 1 0x2020) = .ok .rNop ∧
  decode (.sig .retrVs 0 0x0200) = .ok .retrVs ∧
  decode (.pmode .depth 0x00000180 0) = .ok .dac24 ∧
  decode (.pmode .translate 0x00500000 0x2345) = .ok (.xltWord true 0x2345)

/-! ### Steps and the schedule -/

/-- R95, log 1: a step runs the operation that the first request's word decodes to, after taking the
turn; and `withFetchWord` puts a word where the next step finds it. -/
def Obligations.StepRunsDecoded : Prop :=
  (∀ (s : State) (a : Nat) (w : Issue) (rest : List Request) (i : Instr),
    s.queue = ⟨a, w⟩ :: rest → s.waiters.contains a = false → decode w = .ok i →
      step s = exec i (s.takeTurn a rest)) ∧
  (∀ (s : State) (n w : Nat) (i : Instr), decodeTableWord n w = some i →
      step (s.withFetchWord n w) = exec i (s.takeTurn (freeActor s) s.queue))

/-- R119, log 11, log 21: operation codes 0x0A to 0xFF stand for no operation; a word that stands for none
is dropped, one that holds a reserved selector is refused (U3). That a poll by a caller not waiting and a word
that does not select its unit pass as turns without an effect is the model's reading (log 21). -/
def Obligations.StepWithoutOperation : Prop :=
  (∀ w : HopWord, 0x0A ≤ (hopOp w).toNat → decode (.hop w) = .error (.unmappedPort (hopOp w))) ∧
  ∀ (s : State) (a : Nat) (w : Issue) (rest : List Request) (r : Reject),
    s.queue = ⟨a, w⟩ :: rest → s.waiters.contains a = false → decode w = .error r →
      step s = match r with
        | .reserved sel => .refused (.reservedSelector sel)
        | _ => .next (s.takeTurn a rest)

/-- R150, R102, log 2: a turn of a caller inside WAITVBL. Its poll with the flag clear changes nothing
but the turn; with the flag set it releases the caller and keeps the flag; while the flag is clear the
caller's next operation waits and the next caller's runs. -/
def Obligations.WaitingCallerTurns : Prop :=
  (∀ (s : State) (a : Nat) (rest : List Request),
    s.queue = ⟨a, .poll⟩ :: rest → s.waiters.contains a = true → s.S.vblankFlag = false →
      step s = .next (s.takeTurn a rest)) ∧
  (∀ (s : State) (a : Nat) (w : Issue) (rest : List Request),
    s.queue = ⟨a, w⟩ :: rest → s.waiters.contains a = true → s.S.vblankFlag = true →
      step s = .next { s.takeTurn a (if w = .poll then rest else s.queue) with
        waiters := s.waiters.filter (· != a) }) ∧
  (∀ (s : State) (a b : Nat) (w w' : Issue) (rest : List Request) (i : Instr),
    s.queue = ⟨a, w⟩ :: ⟨b, w'⟩ :: rest → s.waiters.contains a = true → s.S.vblankFlag = false →
      w ≠ .poll → s.waiters.contains b = false → decode w' = .ok i →
      step s = exec i (s.takeTurn b (⟨a, w⟩ :: rest)))

/-- R150, log 2: WAITVBL begins by clearing the flag; a poll by a waiting caller releases it when the flag is
set, keeps the flag, and changes nothing else. That a wait that begins clears the flag for a caller already waiting as
well is the model's reading (log 33). -/
def Obligations.WaitvblBeginsAndPolls : Prop :=
  (∀ s : State, s.waiters.contains s.actor = false →
    exec .waitvbl s = .next { s with
      S := { s.S with vblankFlag := false }
      waiters := s.actor :: s.waiters }) ∧
  (∀ s : State, s.waiters.contains s.actor = true → s.S.vblankFlag = true →
    exec .waitvbl s = .next { s with waiters := s.waiters.filter (· != s.actor) }) ∧
  (∀ s : State, s.waiters.contains s.actor = true → s.S.vblankFlag = false →
    exec .waitvbl s = .next s)

/-! ### RESET -/

/-- R140, R380: the state RESET leaves: every register byte, table entry, runtime field, palette entry
and access counter 0, `P` derived from the zero file, VRAM as it was; a device just constructed is in that
state. That the callers' waits, the schedule, the lock holder, the count of operations and the result stay
(log 3), the events stay (log 13) and the stage registers alone may change beside (log 4) is the model's choice; that
`P` is so with an extension hook plugged in too is its reading (log 35). -/
def Obligations.ResetPutsResetState : Prop :=
  exec .reset State.reset = .next State.reset ∧
  ∀ s : State, ∃ t, exec .reset s = .next t ∧
    (∀ sec idx, regAt t.reg sec idx = 0) ∧
    t.P = derive t.reg ∧
    t.P = { (default : Precalc) with
      clk := ⟨false, .eight, 0, false⟩
      crtc := { (default : Geometry) with charHeight := 1, cursorEnable := true } } ∧
    (∀ c, htabAt t c = 0) ∧ (∀ r, vtabAt t r = 0) ∧
    t.S = ⟨0, 0, false, false, false, false, false, 0, 0, 0, false, 0, 0, 0, 0, 0, 0, 0, 0, 0, 0, false, 0,
      0, 0, 0, 0, 0, 0, 0, 0, 0, none, 0, 0, 0, 0, 0⟩ ∧
    (∀ i comp, palAt t.pal i comp = 0) ∧
    t.dacs = ⟨0, 0, 0, 0⟩ ∧
    { t with reg := s.reg, P := s.P, htab := s.htab, vtab := s.vtab, S := s.S, pal := s.pal,
             dacs := s.dacs, pipe := s.pipe } = s

/-- R382: while the tables are all zero a tick only steps the column counter; so any number of ticks
does, and nothing is emitted. That reserved selectors, of which such a tick needs none, do not stop it is the model's
reading of R52 and U3 (log 11). -/
def Obligations.IdleWhileTablesZero : Prop :=
  ∀ (s : State) (n : BitVec 32), s.htab = none → s.vtab = none →
    exec (.advance n) s = .next { s with S := { s.S with x := s.S.x + n.setWidth 15 } }

/-! ### Registers -/

/-- R42: the timing registers are protected by bit 7 of CRTC_MODE as it stands before the write, which
is itself never protected. -/
def Obligations.TimingRegistersProtected : Prop :=
  ∀ s : State, s.reg.wf = true →
    (∀ idx val : Byte, idx.toNat ≤ 0x1B → (regAt s.reg 1 0x29).getLsbD 7 = true →
      exec (.wrreg 1 idx val) s = .next { s with result := .applied false }) ∧
    (∀ idx val : Byte, idx.toNat ≤ 0x1B → (regAt s.reg 1 0x29).getLsbD 7 = false →
      ∃ t, exec (.wrreg 1 idx val) s = .next t ∧ t.result = .applied true ∧
        regAt t.reg 1 idx = val &&& (if idx.getLsbD 0 then 0x0F else 0xFF)) ∧
    (∀ val : Byte, ∃ t, exec (.wrreg 1 0x29 val) s = .next t ∧ t.result = .applied true ∧
        regAt t.reg 1 0x29 = val &&& 0x9F)

/-- R141, R142, R172, R173, R178, R182: a write that names no register is not applied. A plain register
write stores the defined bits, leaves every other register alone, and leaves `P` derived from the new
register file; the tables are rebuilt exactly when a breakpoint changed, and the three latches cleared
exactly when the DAC mode or the attribute mode changed. That the last colour is then kept is the model's reading
(log 31). -/
def Obligations.RegisterWrite : Prop :=
  (∀ (s : State) (sec idx val : Byte), validIndex sec idx = false →
    exec (.wrreg sec idx val) s = .next { s with result := .applied false }) ∧
  ∀ (s : State) (sec idx val : Byte), s.reg.wf = true → s.par.precalcExt = false → PrecalcCurrent s →
    validIndex sec idx = true →
    ¬(sec = 1 ∧ idx.toNat ≤ 0x1B ∧ (regAt s.reg 1 0x29).getLsbD 7 = true) →
    ¬(sec = 5 ∧ 1 ≤ idx.toNat ∧ idx.toNat ≤ 3) →
    ∃ t, exec (.wrreg sec idx val) s = .next t ∧
      (∀ sec' idx', regAt t.reg sec' idx' =
        if sec' = sec ∧ idx' = idx then val &&& definedMask s.par.dacBits sec idx else regAt s.reg sec' idx') ∧
      t.P = derive t.reg ∧
      (if t.P.h = s.P.h ∧ t.P.v = s.P.v then t.htab = s.htab ∧ t.vtab = s.vtab
       else t.htab = some t.P.h ∧ t.vtab = some t.P.v) ∧
      t.S = (if t.P.dac.dacMode ≠ s.P.dac.dacMode ∨ t.P.attr.attrMode ≠ s.P.attr.attrMode then
          { s.S with dacCount := 0, dacLatch := 0, attrLatch := 0 } else s.S) ∧
      { t with reg := s.reg, P := s.P, htab := s.htab, vtab := s.vtab, S := s.S, result := s.result } = s ∧
      t.result = .applied true

/-- R143, R164: the encoding of a register read and what it returns. It writes nothing but the read
counters, which a DAC_DATA read steps after returning the component they name. That a section above 5 reads
`UNDEFINED_READ`, as any other index that names no register, is the model's reading (log 25). -/
def Obligations.RegisterRead : Prop :=
  (∀ (sec idx c : Byte) (d : BitVec 32), decode (.hop (hopWord 0x02 sec idx c d)) =
    .ok (if sec = 5 ∧ idx = 3 then .dacrdata else .rdreg sec idx)) ∧
  (∀ (s : State) (sec idx : Byte),
    if validIndex sec idx = false then
      exec (.rdreg sec idx) s = .next { s with result := .byte s.par.undefinedRead }
    else if sec = 5 ∧ idx = 1 then exec (.rdreg sec idx) s = .next { s with result := .byte s.dacs.ridx }
    else if sec = 5 ∧ idx = 2 then exec (.rdreg sec idx) s = .next { s with result := .byte s.dacs.widx }
    else if sec = 5 ∧ idx = 3 then exec (.rdreg sec idx) s = exec .dacrdata s
    else exec (.rdreg sec idx) s = .next { s with result := .byte (regAt s.reg sec idx) }) ∧
  (∀ s : State, s.dacs.rsub = 0 → exec .dacrdata s = .next { s with
    result := .byte (palAt s.pal s.dacs.ridx 0), dacs := { s.dacs with rsub := 1 } }) ∧
  (∀ s : State, s.dacs.rsub = 1 → exec .dacrdata s = .next { s with
    result := .byte (palAt s.pal s.dacs.ridx 1), dacs := { s.dacs with rsub := 2 } }) ∧
  (∀ s : State, s.dacs.rsub = 2 → exec .dacrdata s = .next { s with
    result := .byte (palAt s.pal s.dacs.ridx 2)
    dacs := { s.dacs with rsub := 0, ridx := s.dacs.ridx + 1 } })

/-- R163: a DAC_DATA write stores the low `DAC_BITS` bits in the component the write counters name,
steps the counters, and changes no other component, no other register and no field of `P`; every palette
index that maps to the component through the mask shows it from then on. -/
def Obligations.DacDataWrite : Prop :=
  ∀ (s : State) (val : Byte), Canonical s → s.par.precalcExt = false → PrecalcCurrent s →
    s.dacs.wsub ≠ 3 →
    ∃ t, exec (.dacwdata val) s = .next t ∧
      (∀ i : Byte, ∀ comp < 3, palAt t.pal i comp =
        if i = s.dacs.widx ∧ comp = s.dacs.wsub.toNat then
          val &&& (match s.par.dacBits with | .six => 0x3F | .eight => 0xFF)
        else palAt s.pal i comp) ∧
      (∀ sec idx, regAt t.reg sec idx =
        if sec = 5 ∧ idx = 3 then val &&& (match s.par.dacBits with | .six => 0x3F | .eight => 0xFF)
        else regAt s.reg sec idx) ∧
      t.dacs = (if s.dacs.wsub = 2 then { s.dacs with wsub := 0, widx := s.dacs.widx + 1 }
        else { s.dacs with wsub := s.dacs.wsub + 1 }) ∧
      { t with reg := s.reg, pal := s.pal, dacs := s.dacs, result := s.result } = s ∧
      t.result = .applied true ∧
      ∀ i, effective t i = level s (mono s
        ⟨expand8 s.par.dacBits (palAt t.pal (i &&& s.P.dac.dacMask) 0),
         expand8 s.par.dacBits (palAt t.pal (i &&& s.P.dac.dacMask) 1),
         expand8 s.par.dacBits (palAt t.pal (i &&& s.P.dac.dacMask) 2), 0xFF⟩)

/-- R160, R161, R162: the mask write, after which every palette lookup goes through the new mask, and the
two index writes. -/
def Obligations.DacMaskAndIndexWrites : Prop :=
  ∀ (s : State) (val : Byte), s.reg.wf = true → s.par.precalcExt = false →
    (PrecalcCurrent s → ∃ t, exec (.dacmask val) s = .next t ∧
      (∀ sec idx, regAt t.reg sec idx = if sec = 5 ∧ idx = 0 then val else regAt s.reg sec idx) ∧
      { t with reg := s.reg } =
        { s with P := { s.P with dac := { s.P.dac with dacMask := val } }, result := .applied true } ∧
      ∀ i, effective t i = level t (mono t
        ⟨expand8 s.par.dacBits (palAt s.pal (i &&& val) 0), expand8 s.par.dacBits (palAt s.pal (i &&& val) 1),
         expand8 s.par.dacBits (palAt s.pal (i &&& val) 2), 0xFF⟩)) ∧
    (∃ t, exec (.dacridx val) s = .next t ∧
      (∀ sec idx, regAt t.reg sec idx = if sec = 5 ∧ idx = 1 then val else regAt s.reg sec idx) ∧
      { t with reg := s.reg } =
        { s with dacs := { s.dacs with ridx := val, rsub := 0 }, result := .applied true }) ∧
    (∃ t, exec (.dacwidx val) s = .next t ∧
      (∀ sec idx, regAt t.reg sec idx = if sec = 5 ∧ idx = 2 then val else regAt s.reg sec idx) ∧
      { t with reg := s.reg } =
        { s with dacs := { s.dacs with widx := val, wsub := 0 }, result := .applied true })

/-- R47, R163, R164: three components written to any palette entry read back as written, the bits
beyond `DAC_BITS` lost. -/
def Obligations.DacRoundTrip : Prop :=
  ∀ (s : State) (i r g b : Byte), s.pal.wf = true →
    ∃ t, runOps [.dacwidx i, .dacwdata r, .dacwdata g, .dacwdata b, .dacridx i, .dacrdata, .dacrdata, .dacrdata] s =
      .ok (t, [.applied true, .applied true, .applied true, .applied true, .applied true,
        .byte (r &&& dacMaskOf s.par.dacBits), .byte (g &&& dacMaskOf s.par.dacBits),
        .byte (b &&& dacMaskOf s.par.dacBits)])

/-- R145, R174, R175: RECALC with any tag but ALL changes nothing while `P` is current, and RECALC ALL then
changes the tables at most; a second RECALC ALL changes nothing, whatever `P` was before the first. -/
def Obligations.Recalculation : Prop :=
  (∀ (s : State) (sec idx : Byte) (whole : Bool), s.par.precalcExt = false → PrecalcCurrent s → sec ≠ 0 →
    exec (.recalc sec idx whole) s = .next s) ∧
  (∀ (s : State) (idx : Byte) (whole : Bool), s.par.precalcExt = false → PrecalcCurrent s →
    exec (.recalc 0 idx whole) s = .next { s with htab := some s.P.h, vtab := some s.P.v }) ∧
  (∀ (s : State) (idx idx' : Byte) (whole whole' : Bool), s.par.precalcExt = false →
    ∃ t, exec (.recalc 0 idx whole) s = .next t ∧ exec (.recalc 0 idx' whole') t = .next t)

/-- R176: after a register write and the incremental recompute that is part of it, RECALC ALL finds
nothing to change in `P`, and nothing in the tables unless they were never built. -/
def Obligations.RecomputeConsistent : Prop :=
  ∀ (s : State) (sec idx val : Byte), s.reg.wf = true → s.par.precalcExt = false → PrecalcCurrent s →
    ∃ t u, exec (.wrreg sec idx val) s = .next t ∧ exec (.recalc 0 0 false) t = .next u ∧ u.P = t.P ∧
      u.P = derive t.reg ∧
      (TablesCurrent s → (u.htab = t.htab ∧ u.vtab = t.vtab) ∨ (t.htab = none ∧ t.vtab = none))

/-- R178, R112: the tables RECALC ALL builds, bit by bit. -/
def Obligations.RebuiltTables : Prop :=
  ∀ (s : State) (idx : Byte) (whole : Bool), s.par.precalcExt = false →
    ∃ t, exec (.recalc 0 idx whole) s = .next t ∧
      (∀ (c : BitVec 15) (k : Nat), (htabAt t c).getLsbD k = true ↔
        (k = 0 ∧ c = t.P.h.total) ∨ (k = 1 ∧ c = t.P.h.retraceStart) ∨ (k = 2 ∧ c = t.P.h.retraceEnd) ∨
        (k = 3 ∧ c = t.P.h.blankStart) ∨ (k = 4 ∧ c = t.P.h.blankEnd) ∨
        (k = 5 ∧ c < t.P.h.total ∧ t.P.h.displayStart ≤ c ∧ c < t.P.h.displayEnd) ∨
        (k = 6 ∧ c < t.P.h.total ∧ ¬(t.P.h.displayStart ≤ c ∧ c < t.P.h.displayEnd))) ∧
      (∀ (r : BitVec 12) (k : Nat), (vtabAt t r).getLsbD k = true ↔
        (k = 8 ∧ r = t.P.v.total) ∨ (k = 9 ∧ r = t.P.v.retraceStart) ∨ (k = 10 ∧ r = t.P.v.retraceEnd) ∨
        (k = 11 ∧ r = t.P.v.blankStart) ∨ (k = 12 ∧ r = t.P.v.blankEnd) ∨
        (k = 13 ∧ r < t.P.v.total ∧ t.P.v.displayStart ≤ r ∧ r < t.P.v.displayEnd) ∨
        (k = 14 ∧ r < t.P.v.total ∧ ¬(t.P.v.displayStart ≤ r ∧ r < t.P.v.displayEnd)))

/-- R51, R177, R186: the horizontal breakpoints are clamped, not wrapped, so that their order is that of
the registers. R41, R43 to R46, R50: `Derive`, for every register file and field by field, as arithmetic on the
bytes of the registers. -/
def Obligations.HorizontalClamp : Prop :=
  (∀ (cw : CharWidth) (v : BitVec 12),
    (hPosition cw v).toNat = min (v.toNat * (match cw with | .eight => 8 | .nine => 9)) 0x7FFF) ∧
  (∀ (cw : CharWidth) (v v' : BitVec 12), v ≤ v' → hPosition cw v ≤ hPosition cw v') ∧
  hPosition .nine 0xFFF = 0x7FFF ∧
  ∀ m : Memory,
    let d := derive m
    let byte (sec idx : Byte) : Nat := (regAt m sec idx).toNat
    let bit (sec idx : Byte) (k : Nat) : Bool := (regAt m sec idx).getLsbD k
    let r12 (lo hi : Byte) : Nat := byte 1 lo + 256 * (byte 1 hi % 16)
    let r16 (sec lo hi : Byte) : Nat := byte sec lo + 256 * byte sec hi
    let dots : Nat := if bit 2 0x00 0 then 9 else 8
    (d.h.displayStart.toNat = min (r12 0x00 0x01 * dots) 0x7FFF ∧
      d.h.displayEnd.toNat = min (r12 0x02 0x03 * dots) 0x7FFF ∧
      d.h.blankStart.toNat = min (r12 0x04 0x05 * dots) 0x7FFF ∧
      d.h.blankEnd.toNat = min (r12 0x06 0x07 * dots) 0x7FFF ∧
      d.h.retraceStart.toNat = min (r12 0x08 0x09 * dots) 0x7FFF ∧
      d.h.retraceEnd.toNat = min (r12 0x0A 0x0B * dots) 0x7FFF ∧
      d.h.total.toNat = min (r12 0x0C 0x0D * dots) 0x7FFF) ∧
    (d.v.displayStart.toNat = r12 0x0E 0x0F ∧ d.v.displayEnd.toNat = r12 0x10 0x11 ∧
      d.v.blankStart.toNat = r12 0x12 0x13 ∧ d.v.blankEnd.toNat = r12 0x14 0x15 ∧
      d.v.retraceStart.toNat = r12 0x16 0x17 ∧ d.v.retraceEnd.toNat = r12 0x18 0x19 ∧
      d.v.total.toNat = r12 0x1A 0x1B) ∧
    (d.crtc.charHeight.toNat = byte 1 0x1C % 32 + 1 ∧ d.crtc.rowSize.toNat = r16 1 0x1D 0x1E ∧
      d.crtc.startAddress.toNat = r16 1 0x1F 0x20 ∧ d.crtc.bytePanning.toNat = byte 1 0x21 % 4 ∧
      d.crtc.topwindowStart.toNat = r12 0x22 0x23 ∧ d.crtc.cursorLocation.toNat = r16 1 0x24 0x25 ∧
      d.crtc.cursorStart.toNat = byte 1 0x26 % 32 ∧ d.crtc.cursorEnable = !bit 1 0x26 5 ∧
      d.crtc.cursorEnd.toNat = byte 1 0x27 % 32 ∧ d.crtc.underlineLocation.toNat = byte 1 0x28 % 32 ∧
      d.crtc.addrMode.toNat = byte 1 0x29 % 4 ∧ d.crtc.wrapSel = bit 1 0x29 2 ∧
      d.crtc.scandouble = bit 1 0x29 3 ∧ d.crtc.crtcNorender = bit 1 0x29 4 ∧
      d.crtc.timingProtect = bit 1 0x29 7) ∧
    (d.clk.char9 = bit 2 0x00 0 ∧ d.clk.charWidth = (if bit 2 0x00 0 then .nine else .eight) ∧
      d.clk.pixelDiv.toNat = byte 2 0x00 / 2 % 4 ∧ d.clk.screenDisable = bit 2 0x00 5) ∧
    (d.mem.paRead.toNat = byte 2 0x01 % 4 ∧ d.mem.paWrite.toNat = byte 2 0x01 / 4 % 4 ∧
      d.mem.char16 = bit 2 0x01 4 ∧ d.mem.fontBase0.toNat = r16 2 0x02 0x03 ∧
      d.mem.fontBase1.toNat = r16 2 0x04 0x05) ∧
    (d.gfx.textMode = bit 3 0x00 0 ∧ d.gfx.shiftMode.toNat = byte 3 0x00 / 2 % 4) ∧
    ((∀ k < 16, (d.attr.palette16.toList.getD k 0).toNat = byte 4 (BitVec.ofNat 8 k)) ∧
      d.attr.attrMode.toNat = byte 4 0x10 % 4 ∧ d.attr.blinkEnable = bit 4 0x10 2 ∧
      d.attr.monoAttr = bit 4 0x10 3 ∧ d.attr.lineGraphics = bit 4 0x10 4 ∧
      d.attr.topwindowPanreset = bit 4 0x10 5 ∧ d.attr.paletteDisabled = bit 4 0x10 6 ∧
      d.attr.overscanIndex.toNat = byte 4 0x11 ∧ d.attr.colorPlaneEnable.toNat = byte 4 0x12 % 16 ∧
      d.attr.pixelShiftCount.toNat = byte 4 0x13 % 16 ∧ d.attr.cursorBlinkSel.toNat = byte 4 0x14 % 4 ∧
      d.attr.textBlinkSel.toNat = byte 4 0x14 / 4 % 4) ∧
    (d.dac.dacMask.toNat = byte 5 0x00 ∧ d.dac.dacMode.toNat = byte 5 0x04 % 8 ∧
      d.dac.dacLut = bit 5 0x04 3 ∧ d.dac.dacSwap = bit 5 0x04 4 ∧ d.dac.dacOff = bit 5 0x04 7 ∧
      d.dac.monoMode.toNat = byte 5 0x05 % 4 ∧ d.dac.lumMethod = bit 5 0x05 2)

/-- R185, R173, R277, log 8: a plugged-in precalc-extension hook has the last word on `P`, which is its answer
on the whole of `Derive(REG)`, after an applied register write (log 22) and after RECALC with any tag that names
something; the tables stay in step with that `P`, and RECALC ALL builds them from it (log 19); besides `P` and
the tables the operation leaves what it leaves without the hook. A plugged-in
address-wrap-override hook has the last word on the offset of a fetch and of the three translate rows (issued
by themselves: log 4). -/
def Obligations.HooksConsulted : Prop :=
  (∀ (s : State) (sec idx val : Byte), s.par.precalcExt = true → validIndex sec idx = true →
    ¬(sec = 1 ∧ idx.toNat ≤ 0x1B ∧ (regAt s.reg 1 0x29).getLsbD 7 = true) →
    ∃ t, exec (.wrreg sec idx val) s = .next t ∧ t.result = .applied true ∧
      t.P = Config.precalcExt s.epoch (.register sec idx) (derive t.reg) ∧
      (TablesCurrent s → TablesCurrent t)) ∧
  (∀ (s : State) (val : Byte), exec (.dacmask val) s = exec (.wrreg 5 0 val) s ∧
    exec (.dacridx val) s = exec (.wrreg 5 1 val) s ∧ exec (.dacwidx val) s = exec (.wrreg 5 2 val) s ∧
    exec (.dacwdata val) s = exec (.wrreg 5 3 val) s) ∧
  (∀ (s : State) (idx : Byte) (whole : Bool), s.par.precalcExt = true →
    ∃ t, exec (.recalc 0 idx whole) s = .next t ∧ t.P = Config.precalcExt s.epoch .all (derive s.reg) ∧
      t.htab = some t.P.h ∧ t.vtab = some t.P.v) ∧
  (∀ (s : State) (sec idx : Byte) (whole : Bool), s.par.precalcExt = true → 1 ≤ sec.toNat → sec.toNat ≤ 5 →
    (whole = true ∨ validIndex sec idx = true) →
    ∃ t, exec (.recalc sec idx whole) s = .next t ∧
      t.P = Config.precalcExt s.epoch (if whole then .wholeSection sec else .register sec idx) (derive s.reg) ∧
      (TablesCurrent s → TablesCurrent t)) ∧
  (∀ (s : State) (sec idx : Byte) (whole : Bool),
    (5 < sec.toNat ∨ (sec ≠ 0 ∧ whole = false ∧ validIndex sec idx = false)) →
    exec (.recalc sec idx whole) s = .next s) ∧
  (∀ (s : State) (sec idx val : Byte) (whole : Bool), s.par.precalcExt = true →
    ∀ i ∈ [Instr.wrreg sec idx val, Instr.recalc sec idx whole],
      ∃ t u, exec i s = .next t ∧ exec i { s with par := { s.par with precalcExt := false } } = .next u ∧
        { t with par := u.par, P := u.P, htab := u.htab, vtab := u.vtab } = u) ∧
  (∀ s : State, s.par.addrWrapOverride = true →
    (∀ a : Nat, s.P.crtc.addrMode ≠ 3 → translate s a = .ok (
      Config.addrWrapOverride s.epoch a s.P.crtc.addrMode
        (modeOffset s.par.memaddrBits s.P.crtc.addrMode s.P.crtc.wrapSel a))) ∧
    ∀ (wrap : Bool) (addr : BitVec 32),
      let a := addr.toNat % 2 ^ s.par.memaddrBits
      ∀ x ∈ [(Instr.xltByte addr, (0 : BitVec 2)), (.xltWord wrap addr, 1), (.xltDword addr, 2)],
        exec x.1 s = .next { s with result := .offset (
          Config.addrWrapOverride s.epoch a x.2 (modeOffset s.par.memaddrBits x.2 wrap a)) })

/-! ### VRAM -/

/-- R84, R153: VREAD's encoding; it masks the offset, then applies the limit and the bound, and reads 0xFF outside. -/
def Obligations.VramRead : Prop :=
  (∀ (plane b c : Byte) (off : BitVec 32),
    decode (.hop (hopWord 0x07 plane b c off)) = .ok (.vread plane off)) ∧
  ∀ (s : State) (plane : Byte) (off : BitVec 32),
    exec (.vread plane off) s = .next { s with result := .byte (
      if 3 < plane.toNat then 0xFF
      else if ∃ lim, s.par.vramLimit = some lim ∧ lim ≤ off.toNat &&& s.par.vramMask then 0xFF
      else if s.par.planeSize ≤ off.toNat &&& s.par.vramMask then 0xFF
      else s.vram.read (4 * (off.toNat &&& s.par.vramMask) + plane.toNat)) }

/-- R85, R88, R152: VWRITE's encoding; it stores one byte at the masked offset of one plane, every other byte of the
four planes reads as before; planes 2 and 3 report it; out of range it is dropped. -/
def Obligations.VramWrite : Prop :=
  (∀ (plane b val : Byte) (off : BitVec 32),
    decode (.hop (hopWord 0x06 plane b val off)) = .ok (.vwrite plane val off)) ∧
  ∀ (s : State) (plane val : Byte) (off : BitVec 32), s.vram.wf = true →
    (plane.toNat ≤ 3 → off.toNat &&& s.par.vramMask < s.par.planeSize →
      (∀ lim, s.par.vramLimit = some lim → off.toNat &&& s.par.vramMask < lim) →
      ∃ t, exec (.vwrite plane val off) s = .next t ∧
        (∀ p ≤ 3, ∀ off', planeRead t p off' =
          if p = plane.toNat ∧ off' &&& s.par.vramMask = off.toNat &&& s.par.vramMask then val
          else planeRead s p off') ∧
        t.events = (if 2 ≤ plane.toNat then
          .plane23 plane.toNat (off.toNat &&& s.par.vramMask) :: s.events else s.events) ∧
        { t with vram := s.vram, events := s.events } = s) ∧
    (3 < plane.toNat ∨ s.par.planeSize ≤ off.toNat &&& s.par.vramMask ∨
        (∃ lim, s.par.vramLimit = some lim ∧ lim ≤ off.toNat &&& s.par.vramMask) →
      exec (.vwrite plane val off) s = .next s)

/-! ### Plane addressing -/

/-- R271 to R274: the four plane-address strategies, both directions, as arithmetic on the address. That a
strategy can be issued by itself is the model's choice (log 4), as is the refusal of a reserved mode (log 12). -/
def Obligations.PlaneAddressStrategies : Prop :=
  ∀ (s : State) (a : BitVec 32),
    (∀ i ∈ [Instr.paPlanarR a, Instr.paPlanarW a],
      exec i s = .next { s with result := .planeAddr 0xF a }) ∧
    (∀ i ∈ [Instr.paChain4R a, Instr.paChain4W a],
      ∃ m o, exec i s = .next { s with result := .planeAddr m o } ∧ m.toNat = 2 ^ (a.toNat % 4) ∧
        o.toNat = a.toNat / 4 * 4 + a.toNat / 2 ^ 14 % 4) ∧
    (∀ wrap : Bool, s.P.crtc.addrMode ≠ 3 → ∀ i ∈ [Instr.paOddevenR wrap a, Instr.paOddevenW wrap a],
      ∃ m o, exec i s = .next { s with result := .planeAddr m o } ∧
        m = (if a.getLsbD 0 then 0xA else 0x5) ∧
        o.toNat = a.toNat / 2 * 2 +
          (if s.P.crtc.addrMode = 1 then (a.getLsbD (if wrap then 16 else 14)).toNat else 0)) ∧
    (∀ i ∈ [Instr.paLinearR a, Instr.paLinearW a],
      ∃ m o, exec i s = .next { s with result := .planeAddr m o } ∧ m.toNat = 2 ^ (a.toNat % 4) ∧
        o.toNat = a.toNat / 4)

/-- R154, R270, R275: PADEC's encoding; it answers with the strategy selected for its direction, and writes nothing.
The strategies are compared as rows issued by themselves (log 4); odd/even under a reserved address mode, which the
model refuses (log 12), is left out of the last clause. -/
def Obligations.PadecUsesSelectedStrategy : Prop :=
  (∀ (dir b c : Byte) (a : BitVec 32),
    decode (.hop (hopWord 0x08 dir b c a)) = .ok (.padec (dir.getLsbD 0) a)) ∧
  ∀ (s : State) (write : Bool) (a : BitVec 32),
    let sel := if write then s.P.mem.paWrite else s.P.mem.paRead
    (sel = 0 → exec (.padec write a) s = exec (.paPlanarR a) s) ∧
    (sel = 1 → exec (.padec write a) s = exec (.paChain4R a) s) ∧
    (sel = 2 → exec (.padec write a) s = exec (.paOddevenR s.P.crtc.wrapSel a) s) ∧
    (sel = 3 → exec (.padec write a) s = exec (.paLinearR a) s) ∧
    (sel ≠ 2 ∨ s.P.crtc.addrMode ≠ 3 → ∃ m o,
      exec (.padec write a) s = .next { s with result := .planeAddr m o })

/-- R276: the three CRTC address translations, as arithmetic: the one that `P.addr_mode` and `P.wrap_sel`
select for a fetch, and the three rows (issued by themselves: log 4) on an address reduced to `MEMADDR_BITS`. -/
def Obligations.AddressTranslation : Prop :=
  (∀ (s : State) (a : Nat), s.par.addrWrapOverride = false →
    let m := s.par.memaddrBits
    (s.P.crtc.addrMode = 0 → translate s a = .ok a) ∧
    (s.P.crtc.addrMode = 1 →
      translate s a = .ok (a * 2 % 2 ^ m + a / 2 ^ (if s.P.crtc.wrapSel then 15 else 13) % 2)) ∧
    (s.P.crtc.addrMode = 2 → translate s a = .ok (a * 4 % 2 ^ m + a / 2 ^ 12 % 4))) ∧
  ∀ (s : State) (wrap : Bool) (addr : BitVec 32), s.par.addrWrapOverride = false →
    let m := s.par.memaddrBits
    let a := addr.toNat % 2 ^ m
    exec (.xltByte addr) s = .next { s with result := .offset a } ∧
    exec (.xltWord wrap addr) s =
      .next { s with result := .offset (a * 2 % 2 ^ m + a / 2 ^ (if wrap then 15 else 13) % 2) } ∧
    exec (.xltDword addr) s = .next { s with result := .offset (a * 4 % 2 ^ m + a / 2 ^ 12 % 4) }

/-- R272: below 0x10000 the chain-4 offset of an address is the doubleword translation of a quarter of
it, so that what the CPU side stores is what the render fetch shows. -/
def Obligations.Chain4MatchesDword : Prop :=
  ∀ (s : State) (a : BitVec 32), s.par.memaddrBits = 16 → s.par.addrWrapOverride = false →
    a.toNat < 0x10000 →
    ∃ m o, exec (.paChain4W a) s = .next { s with result := .planeAddr m o } ∧
      exec (.xltDword (a >>> 2)) s = .next { s with result := .offset o.toNat }

/-! ### The pen and the divider -/

/-- R155: PENPOS reads x and y from their fields, whatever the other bits, and writes the pen's position
and nothing else. -/
def Obligations.PenposSetsPen : Prop :=
  (∀ (a b c : Byte) (above : BitVec 4) (y : BitVec 12) (between : BitVec 1) (x : BitVec 15),
    decode (.hop (hopWord 0x09 a b c (above ++ y ++ between ++ x))) = .ok (.penpos x y)) ∧
  ∀ (s : State) (x : BitVec 15) (y : BitVec 12),
    exec (.penpos x y) s = .next { s with S := { s.S with penX := x, penY := y } }

/-- R241, R211, log 4: the divider variants reload when the phase is 0 and step it modulo 1, 2 and 4. -/
def Obligations.DividerVariants : Prop :=
  ∀ s : State,
    exec .divFull s = .next { s with
      S := { s.S with divPhase := 0 }, result := .reload (decide (s.S.divPhase = 0)) } ∧
    exec .divHalf s = .next { s with
      S := { s.S with divPhase := if s.S.divPhase.getLsbD 0 then 0 else 1 }
      result := .reload (decide (s.S.divPhase = 0)) } ∧
    exec .divQuarter s = .next { s with
      S := { s.S with divPhase := s.S.divPhase + 1 }, result := .reload (decide (s.S.divPhase = 0)) }

/-! ### The sequencer -/

/-- R203, R204, R116, log 4: the eight latch micro-operations; RETR.VS acts only on the 0 to 1 edge. -/
def Obligations.LatchMicroOperations : Prop :=
  ∀ s : State,
    exec .blankHs s = .next { s with S := { s.S with hblank := true } } ∧
    exec .blankHe s = .next { s with S := { s.S with hblank := false } } ∧
    exec .blankVs s = .next { s with S := { s.S with vblank := true } } ∧
    exec .blankVe s = .next { s with S := { s.S with vblank := false } } ∧
    exec .retrHs s = .next { s with S := { s.S with hretrace := true } } ∧
    exec .retrHe s = .next { s with S := { s.S with hretrace := false } } ∧
    exec .retrVe s = .next { s with S := { s.S with vretrace := false } } ∧
    (s.S.vretrace = true → exec .retrVs s = .next s) ∧
    (s.S.vretrace = false → exec .retrVs s = .next { s with
      S := { s.S with vretrace := true, vblankFlag := true, frameCtr := s.S.frameCtr + 1 }
      events := .frame :: s.events })

/-- R205, R208, R209: the horizontal-total handler: the scanline reset always, the row step only on
leaving an active-display row, and the split screen when the scanline count meets its start. That a count which
wraps to 0 meets a start of 0 is the model's reading (log 23). -/
def Obligations.HorizontalTotal : Prop :=
  ∀ s : State,
    let base := { s.S with
      x := 0, activePx := 0, divPhase := 0, charcol := 0, outX := 0, fetchValid := false, dacCount := 0,
      dacLatch := 0, attrLatch := 0, lastEmit := none, y := s.S.y + 1, outY := s.S.outY + 1 }
    let rows := { base with scanline := s.S.scanline + 1 }
    let next :=
      if s.P.crtc.scandouble = true ∧ s.S.dblPhase = false then { rows with dblPhase := true }
      else if s.S.rowscan.toNat + 1 = s.P.crtc.charHeight.toNat then
        { rows with
          dblPhase := false, rowscan := 0, charrow := s.S.charrow + 1
          memaddr := (s.S.memaddr + s.P.crtc.rowSize.toNat) % 2 ^ s.par.memaddrBits }
      else { rows with dblPhase := false, rowscan := s.S.rowscan + 1 }
    ((vtabAt s s.S.y).getLsbD 13 = false → exec .htotal s = .next { s with S := base }) ∧
    ((vtabAt s s.S.y).getLsbD 13 = true → s.S.scanline + 1 ≠ s.P.crtc.topwindowStart →
      exec .htotal s = .next { s with S := next }) ∧
    ((vtabAt s s.S.y).getLsbD 13 = true → s.S.scanline + 1 = s.P.crtc.topwindowStart →
      exec .htotal s = .next { s with S :=
        if s.P.attr.topwindowPanreset then
          { next with memaddr := 0, rowscan := 0, charrow := 0, dblPhase := false, pixshift := 0, bytepan := 0 }
        else { next with memaddr := 0, rowscan := 0, charrow := 0, dblPhase := false } })

/-- R207: the vertical-total handler: the row reset and the three frame latches. -/
def Obligations.VerticalTotal : Prop :=
  ∀ s : State,
    let start := s.P.crtc.startAddress.toNat % 2 ^ s.par.memaddrBits
    exec .vtotal s = .next { s with S := { s.S with
      y := 0, outY := 0, scanline := 0, rowscan := 0, dblPhase := false, charrow := 0
      latStart := start, latPixshift := s.P.attr.pixelShiftCount, latBytepan := s.P.crtc.bytePanning
      memaddr := (start + s.P.crtc.bytePanning.toNat) % 2 ^ s.par.memaddrBits
      pixshift := s.P.attr.pixelShiftCount, bytepan := s.P.crtc.bytePanning } }

/-- R201, R52: while no selector is reserved a tick, and any number of ticks, has a next state; only the
runtime registers and the event list differ. -/
def Obligations.TicksComplete : Prop :=
  ∀ (s : State) (n : BitVec 32), SelectorsLegal s.P = true →
    (∃ t, exec .tick s = .next t ∧ RuntimeOnly s t) ∧
    (∃ t, exec (.advance n) s = .next t ∧ RuntimeOnly s t)

/-- R147: ADVANCE repeats the tick, none for 0, and composes. This is said of `exec`, within one count of operations:
that with an address-wrap hook plugged in two turns may answer otherwise is the model's reading (log 34). -/
def Obligations.AdvanceComposes : Prop :=
  ∀ s : State,
    exec (.advance 0) s = .next s ∧ exec (.advance 1) s = exec .tick s ∧
    ∀ (n m : BitVec 32) (t : State), n.toNat + m.toNat < 2 ^ 32 → exec (.advance n) s = .next t →
      exec (.advance (n + m)) s = exec (.advance m) t

/-- R122, R203, R204, R206, R341, R355: the events of one tick, in order: at most four FRAME, then nothing,
DIAG_RETRY alone, PEN alone, or PEN and then PIX (the event list is newest first); each FRAME steps the frame
counter, and the vertical-blank flag is set exactly if there is one. A tick at a position without a total bit
leaves the four latches, the flag and the counter as its bits say, with a FRAME exactly on the 0 to 1 edge. -/
def Obligations.TickEventsAndLatches : Prop :=
  (∀ s t : State, exec .tick s = .next t →
    ∃ (k : Nat) (tail : List Event), k ≤ 4 ∧ t.events = tail ++ List.replicate k .frame ++ s.events ∧
      (tail = [] ∨ tail = [.diagRetry] ∨ (∃ a b, tail = [.pen a b]) ∨
        ∃ a b x y c, tail = [.pix x y c, .pen a b]) ∧
      t.S.frameCtr = s.S.frameCtr + BitVec.ofNat 6 k ∧
      t.S.vblankFlag = (s.S.vblankFlag || decide (0 < k))) ∧
  ∀ s t : State, totalHere s = false → exec .tick s = .next t →
    t.S.hblank = (resolved s).S.hblank ∧ t.S.vblank = (resolved s).S.vblank ∧
    t.S.hretrace = (resolved s).S.hretrace ∧ t.S.vretrace = (resolved s).S.vretrace ∧
    t.S.vblankFlag = (resolved s).S.vblankFlag ∧ t.S.frameCtr = (resolved s).S.frameCtr ∧
    ∃ tail, t.events = tail ++ (resolved s).events ∧ .frame ∉ tail

/-- R201, R206, R210, R113, R214: a tick at a position without a total bit evaluates the signal, runs the
render row of the position and steps the column. A tick at a position with one runs the total handlers and then
is the tick of the position they lead to, unless the bound is met: after four positions with a total bit in a row
DIAG_RETRY is emitted, no row is rendered, and the column steps. R201, R205, R207, R214: so a tick moves along the
row, from the total column to column 1 of the next row, from the total row to row 0; valid totals never exceed the
retry bound (R206, R351). That a position beyond one axis's total is overscan where the other axis says so is the
model's reading (log 24), as it is that a tick which meets the bound goes on under reserved selectors, of which it
needs none (R52, U3, log 11). -/
def Obligations.TickRowAndPosition : Prop :=
  (∀ s u : State, totalHere s = false → exec (renderRow (resolved s)) (resolved s) = .next u →
    exec .tick s = .next { u with S := { u.S with x := u.S.x + 1 } }) ∧
  (∀ s u v : State, totalHere s = true → TotalsRun s u → TotalsRun u v →
    (totalHere u = false ∨ totalHere v = false) → exec .tick s = exec .tick u) ∧
  (∀ s u v w : State, TotalsRun s u → TotalsRun u v → TotalsRun v w →
    totalHere s = true → totalHere u = true → totalHere v = true → totalHere w = true →
    exec .tick s = .next { resolved w with
      S := { (resolved w).S with x := w.S.x + 1 }
      events := .diagRetry :: (resolved w).events }) ∧
  ∀ (s : State) (h : Breakpoints 15) (v : Breakpoints 12), BuiltFrom s h v →
    s.S.y.toNat < v.total.toNat → SelectorsLegal s.P = true →
    ∃ t, exec .tick s = .next t ∧
      t.S.x = (if s.S.x = h.total then 1 else s.S.x + 1) ∧
      t.S.y = (if s.S.x = h.total then (if s.S.y + 1 = v.total then 0 else s.S.y + 1) else s.S.y) ∧
      ∀ new, t.events = new ++ s.events → .diagRetry ∉ new

/-- R219: a frame is `P.h.total × P.v.total` ticks: that many ticks from a position inside the torus end
at the same position, with exactly one FRAME if the vertical retrace starts and ends inside the frame. -/
def Obligations.FrameReturnsToPosition : Prop :=
  ∀ (s : State) (h : Breakpoints 15) (v : Breakpoints 12), BuiltFrom s h v → InTorus s h v →
    SelectorsLegal s.P = true →
    ∃ t new, exec (.advance (BitVec.ofNat 32 (h.total.toNat * v.total.toNat))) s = .next t ∧
      t.S.x = s.S.x ∧ t.S.y = s.S.y ∧ t.events = new ++ s.events ∧
      (RetraceInStep s v → new.count .frame = 1 ∧ RetraceInStep t v)

/-- R206, R395: with a vertical total of 0 every tick of row 0 away from the horizontal total ends in
DIAG_RETRY: nothing is rendered, and the column still steps. That it does under reserved selectors too, of which it
needs none, is the model's reading of R52 and U3 (log 11). -/
def Obligations.VerticalTotalZeroRetries : Prop :=
  ∀ (s : State) (v : Breakpoints 12), s.vtab = some v → v.total = 0 → s.S.y = 0 →
    (htabAt s s.S.x).getLsbD 0 = false →
    ∃ t, exec .tick s = .next t ∧ t.S.x = s.S.x + 1 ∧ t.S.y = 0 ∧
      ∃ k ≤ 4, t.events = .diagRetry :: (List.replicate k .frame ++ s.events)

/-- R216, R203: once the horizontal blank latch is set, or is set at this position, a tick that meets no
end bit leaves it set and outputs no pixel. -/
def Obligations.BlankSticky : Prop :=
  ∀ s t : State, (s.S.hblank = true ∨ (htabAt s s.S.x).getLsbD 3 = true) →
    (htabAt s s.S.x).getLsbD 4 = false →
    ((htabAt s s.S.x).getLsbD 0 = true → (htabAt s 0).getLsbD 4 = false) →
    exec .tick s = .next t →
      t.S.hblank = true ∧ ∀ new, t.events = new ++ s.events → ∀ x y c, .pix x y c ∉ new

/-- R217, R207: a tick that cannot reach the vertical total does not see the start address, the pixel
shift or the byte panning registers: two states that differ only in them and the register file run
alike. -/
def Obligations.FrameLatch : Prop :=
  ∀ s s' t : State, SameButLatchSources s s' → NoVTotalAhead s → exec .tick s = .next t →
    ∃ t', exec .tick s' = .next t' ∧ t'.S = t.S ∧ t'.events = t.events ∧ SameButLatchSources t t'

/-- R218: a tick that ends with a retrace latch set emits no pixel and makes no light-pen call, whatever
its signals; the output column and the decode counters are as they were, or as the horizontal total left
them. Away from the totals it has a next state and moves none of them. That it has one under any selectors, reserved
values included, because a tick that renders nothing needs none, is the model's reading of R52 and U3 (log 11). -/
def Obligations.RetraceForcesNoop : Prop :=
  (∀ s t : State, exec .tick s = .next t → (t.S.hretrace = true ∨ t.S.vretrace = true) →
    (∃ new, t.events = new ++ s.events ∧ (∀ x y c, .pix x y c ∉ new) ∧ ∀ a b, .pen a b ∉ new) ∧
    ((t.S.outX = s.S.outX ∧ t.S.activePx = s.S.activePx ∧ t.S.divPhase = s.S.divPhase ∧
        t.S.lastEmit = s.S.lastEmit ∧ t.S.fetchGroup = s.S.fetchGroup) ∨
      (t.S.outX = 0 ∧ t.S.activePx = 0 ∧ t.S.divPhase = 0 ∧ t.S.lastEmit = none ∧
        t.S.fetchGroup = s.S.fetchGroup))) ∧
  ∀ s : State, totalBits (signal s) = false →
    ((evaluate s).S.hretrace = true ∨ (evaluate s).S.vretrace = true) →
    ∃ t, exec .tick s = .next t ∧ t.S.outX = s.S.outX ∧ t.S.activePx = s.S.activePx ∧
      t.S.divPhase = s.S.divPhase ∧ t.S.lastEmit = s.S.lastEmit ∧
      (t.events = s.events ∨ t.events = .frame :: s.events)

/-- R212, R213, R340, R341, R343, R25: FrameOutput, by OUT.PIXEL with the colour in the stage registers and
by the overscan rows with the border colour (rows issued by themselves: log 4): the light-pen
call always, the pixel unless one of the five blanking conditions holds, the output column always. R.NOP changes nothing.
Of the events recorded, the light-pen calls are delivered exactly if that hook is plugged in, and every other event
always, in their order; the other three hooks have no part in it (R343, R353). That a call is recorded also with no
hook plugged in and discarded in `deliveredEvents` is the model's form (log 9), and that the border needs no selector
and is output under a reserved value too is its reading of R52 and U3 (log 11). -/
def Obligations.FrameOutputRows : Prop :=
  (∀ s : State,
    let colour : Rgba := if s.P.dac.dacOff then ⟨0, 0, 0, 0xFF⟩ else effective s s.P.attr.overscanIndex
    let after (c : Rgba) : State := { s with
      S := { s.S with outX := s.S.outX + 1 }
      events :=
        (if s.S.hblank ∨ s.S.vblank ∨ s.P.clk.screenDisable ∨ s.P.attr.paletteDisabled ∨
            s.P.crtc.crtcNorender then [] else [Event.pix s.S.outX s.S.outY c]) ++
          Event.pen s.S.lightpenAddr (decide (s.S.outX = s.S.penX ∧ s.S.outY = s.S.penY)) :: s.events }
    (∀ i ∈ [Instr.rOverscanH, Instr.rOverscanV], exec i s = .next (after colour)) ∧
    (∀ c, s.pipe.rgba = some c → exec .outPixel s = .next (after c)) ∧
    (s.pipe.rgba = none → exec .outPixel s = .next s) ∧
    exec .rNop s = .next s) ∧
  (∀ s : State, deliveredEvents { s with events := [] } = []) ∧
  (∀ (s : State) (addr : BitVec 32) (pen : Bool) (rest : List Event),
    deliveredEvents { s with events := .pen addr pen :: rest } =
      (if s.par.lightPen then [Event.pen addr pen] else []) ++ deliveredEvents { s with events := rest }) ∧
  (∀ (s : State) (e : Event) (rest : List Event), (∀ addr pen, e ≠ .pen addr pen) →
    deliveredEvents { s with events := e :: rest } = e :: deliveredEvents { s with events := rest }) ∧
  ∀ (s : State) (precalc clock wrap : Bool),
    deliveredEvents { s with par := { s.par with
      precalcExt := precalc, clockRateOverride := clock, addrWrapOverride := wrap } } = deliveredEvents s

/-- R211: the active-display row: away from a reload tick it shows the last colour and steps the divider;
on a reload tick it decodes one unit. That the colour shown away from a reload tick is the one converted before, under
DAC-off too (log 27), and that the phase alone tells a reload tick, whatever the divider was set to since (log 30), is
the model's reading. -/
def Obligations.ActiveDisplayRow : Prop :=
  ∀ s : State, SelectorsLegal s.P = true →
    (s.S.divPhase ≠ 0 → s.S.lastEmit = none → exec .rActive s = .next { s with S := { s.S with
      divPhase := BitVec.ofNat 2 ((s.S.divPhase.toNat + 1) % 2 ^ s.P.clk.pixelDiv.toNat) } }) ∧
    (∀ c, s.S.divPhase ≠ 0 → s.S.lastEmit = some c → exec .rActive s = .next (frameOutput c { s with
      S := { s.S with
        divPhase := BitVec.ofNat 2 ((s.S.divPhase.toNat + 1) % 2 ^ s.P.clk.pixelDiv.toNat) } })) ∧
    (s.S.divPhase = 0 → ∃ t, exec .rActive s = .next t ∧ RuntimeOnly s t ∧
      t.S.activePx = s.S.activePx + 1 ∧ t.S.divPhase = (if s.P.clk.pixelDiv = 0 then 0 else 1) ∧
      t.S.outX = (if t.S.lastEmit = none then s.S.outX else s.S.outX + 1))

/-- R117, R211, log 4: the stage variants that the selectors choose, issued one after another, do what a reload
tick of the active-display row does. -/
def Obligations.StagesMakeActiveDisplay : Prop :=
  ∀ s : State, SelectorsLegal s.P = true → s.P.clk.charWidth = (if s.P.clk.char9 then .nine else .eight) →
    s.S.divPhase = 0 →
    ∃ t u rs, exec .rActive s = .next t ∧ runOps (stageList s.P) s = .ok (u, rs) ∧ t.events = u.events ∧
      t.S = { u.S with
        lastEmit := u.pipe.rgba
        divPhase := BitVec.ofNat 2 (1 % 2 ^ s.P.clk.pixelDiv.toNat) }

/-- R52, U3, log 11, log 12: an operation that needs a reserved selector is refused by its name: each stage row
(issued by itself: log 4), PADEC, the active-display row with whatever its stages need, and TICK and ADVANCE
(log 20) with the row or the tick that needs it. -/
def Obligations.ReservedSelectorRefused : Prop :=
  (∀ s : State, s.P.crtc.addrMode = 3 →
    (∀ (wrap : Bool) (a : BitVec 32), ∀ i ∈ [Instr.paOddevenR wrap a, Instr.paOddevenW wrap a],
      exec i s = .refused (.reservedSelector .addrMode)) ∧
    (∀ (write : Bool) (a : BitVec 32), (if write then s.P.mem.paWrite else s.P.mem.paRead) = 2 →
      exec (.padec write a) s = .refused (.reservedSelector .addrMode)) ∧
    (s.P.attr.attrMode ≠ 3 →
      (¬Held s 8 → ∀ i ∈ [Instr.decPlanar, Instr.decPacked],
        exec i s = .refused (.reservedSelector .addrMode)) ∧
      (¬Held s (if s.P.attr.attrMode = 2 then 4 else 8) →
        exec .decShift256 s = .refused (.reservedSelector .addrMode)) ∧
      (∀ char9 lineGraphics char16 : Bool, ¬Held s (dotsOf char9) →
        exec (.decText char9 lineGraphics char16) s = .refused (.reservedSelector .addrMode)))) ∧
  (∀ (s : State) (char9 lineGraphics char16 : Bool), s.P.attr.attrMode = 3 →
    ∀ i ∈ [Instr.decPlanar, Instr.decPacked, Instr.decShift256, Instr.decText char9 lineGraphics char16],
      exec i s = .refused (.reservedSelector .attrMode)) ∧
  (∀ (s : State) (char9 lineGraphics char16 : Bool) (off : Nat), s.P.attr.attrMode ≠ 3 →
    s.P.attr.cursorBlinkSel = 3 →
    (Held s (dotsOf char9) ∨ translate s (unitAddr s (dotsOf char9)) = .ok off) →
    cursorShape s.P (textAfter s (dotsOf char9) char16 off) →
    exec (.decText char9 lineGraphics char16) s = .refused (.reservedSelector .cursorBlinkSel)) ∧
  (∀ (s : State) (ai : AttrInfo), s.pipe.ai = some ai → s.P.attr.textBlinkSel = 3 → NeedsTextBlink s.P ai →
    ∀ i ∈ [Instr.attr4, Instr.attr8], exec i s = .refused (.reservedSelector .textBlinkSel)) ∧
  (∀ s : State, 4 < s.P.dac.dacMode.toNat → exec .dacSwap s = .refused (.reservedSelector .dacMode)) ∧
  (∀ s : State, s.P.clk.pixelDiv = 3 → exec .rActive s = .refused (.reservedSelector .pixelDiv)) ∧
  (∀ s : State, s.P.clk.pixelDiv ≠ 3 → s.S.divPhase = 0 →
    (s.P.gfx.textMode = false → s.P.gfx.shiftMode = 3 →
      exec .rActive s = .refused (.reservedSelector .shiftMode)) ∧
    ((s.P.gfx.textMode = true ∨ s.P.gfx.shiftMode ≠ 3) →
      s.P.clk.charWidth = (if s.P.clk.char9 then .nine else .eight) →
      (∀ r, runOps [decodeVariant s.P, attrVariant s.P] s = .error r → exec .rActive s = .refused r) ∧
      (∀ u rs, runOps [decodeVariant s.P, attrVariant s.P] s = .ok (u, rs) → u.pipe.val ≠ none →
        4 < s.P.dac.dacMode.toNat → exec .rActive s = .refused (.reservedSelector .dacMode)))) ∧
  (∀ (s : State) (r : Refusal), totalHere s = false →
    exec (renderRow (resolved s)) (resolved s) = .refused r → exec .tick s = .refused r) ∧
  (∀ (s t : State) (n m : BitVec 32) (r : Refusal), exec (.advance n) s = .next t → exec .tick t = .refused r →
    n < m → exec (.advance m) s = .refused r)

/-! ### Decode -/

/-- R242, R249 to R252, log 4: the graphics decode variants: the group is fetched unless held, and the unit is the
stated field of the four plane bytes, of which byte `p` of the shift register as fetched is plane `p`'s (R86).
`off` is the offset `Translate` gives the group's address, where it is not held. Where a selector is not needed, a
reserved value does not stop the row (log 11). -/
def Obligations.GraphicsDecode : Prop :=
  (∀ (s : State) (off p : Nat), p ≤ 3 → (fetchDword s off).toNat / 2 ^ (8 * p) % 256 = (planeRead s p off).toNat) ∧
  (∀ (s : State) (off : Nat), s.P.attr.attrMode ≠ 3 →
    (Held s 8 ∨ translate s (unitAddr s 8) = .ok off) →
    ∃ u : BitVec 16, exec .decPlanar s = .next { s with
        S := graphicsAfter s 8 off
        pipe := { s.pipe with ai := some ⟨u, false, sizeFor s.P.attr.attrMode, (unitIndex s).getLsbD 0⟩ } } ∧
      let d := (graphicsAfter s 8 off).shiftreg
      let i := unitInGroup s 8
      u.toNat = bitNat d (7 - i) + 2 * bitNat d (15 - i) + 4 * bitNat d (23 - i) + 8 * bitNat d (31 - i)) ∧
  (∀ (s : State) (off : Nat), s.P.attr.attrMode ≠ 3 →
    (Held s 8 ∨ translate s (unitAddr s 8) = .ok off) →
    ∃ u : BitVec 16, exec .decPacked s = .next { s with
        S := graphicsAfter s 8 off
        pipe := { s.pipe with ai := some ⟨u, false, sizeFor s.P.attr.attrMode, (unitIndex s).getLsbD 0⟩ } } ∧
      let d := (graphicsAfter s 8 off).shiftreg.toNat
      let i := unitInGroup s 8
      u.toNat = d / 2 ^ (8 * (i / 4) + 6 - 2 * (i % 4)) % 4 +
        4 * (d / 2 ^ (8 * (i / 4 + 2) + 6 - 2 * (i % 4)) % 4)) ∧
  (∀ (s : State) (off : Nat), s.P.attr.attrMode ≠ 3 → s.P.attr.attrMode ≠ 2 →
    (Held s 8 ∨ translate s (unitAddr s 8) = .ok off) →
    ∃ u : BitVec 16, exec .decShift256 s = .next { s with
        S := graphicsAfter s 8 off
        pipe := { s.pipe with ai := some ⟨u, false, sizeFor s.P.attr.attrMode, (unitIndex s).getLsbD 0⟩ } } ∧
      let i := unitInGroup s 8
      u.toNat = (graphicsAfter s 8 off).shiftreg.toNat /
        2 ^ (8 * (i / 2) + (if i % 2 = 0 then 4 else 0)) % 16) ∧
  (∀ (s : State) (off : Nat), s.P.attr.attrMode = 2 →
    (Held s 4 ∨ translate s (unitAddr s 4) = .ok off) →
    ∃ u : BitVec 16, exec .decShift256 s = .next { s with
        S := graphicsAfter s 4 off
        pipe := { s.pipe with ai := some ⟨u, false, .bits16, (unitIndex s).getLsbD 0⟩ } } ∧
      u.toNat = (graphicsAfter s 4 off).shiftreg.toNat / 2 ^ (8 * unitInGroup s 4) % 256)

/-- R243 to R247, log 4: DEC.TEXT: the cell is fetched unless held; the font bit is the dot's, with the 9th dot
and the cursor as the rules say. Where a selector is not needed, a reserved value does not stop the row (log 11). -/
def Obligations.TextDecode : Prop :=
  ∀ (s : State) (char9 lineGraphics char16 : Bool) (off : Nat), s.P.attr.attrMode ≠ 3 →
    (Held s (dotsOf char9) ∨ translate s (unitAddr s (dotsOf char9)) = .ok off) →
    let r := textAfter s (dotsOf char9) char16 off
    (s.P.attr.cursorBlinkSel ≠ 3 ∨ ¬cursorShape s.P r) →
    ∃ font : Bool, exec (.decText char9 lineGraphics char16) s = .next { s with
        S := r
        pipe := { s.pipe with
          ai := some ⟨r.cellAttr, font, sizeFor s.P.attr.attrMode, (unitIndex s).getLsbD 0⟩ } } ∧
      (font = true ↔ dotBit s.par lineGraphics r (unitInGroup s (dotsOf char9)) ∨ cursorAt s.P r)

/-! ### Attribute -/

/-- R292: the table entry, with the text rules in order of precedence: blink gating over underline over
forced background over the font flag. -/
def Obligations.AttributeEntry : Prop :=
  ∀ (par : Params) (p : Precalc) (a : Byte) (font blink : Bool) (row : BitVec 5),
    let fg := a.toNat % 16
    let bg := if p.attr.blinkEnable then a.toNat / 16 % 8 else a.toNat / 16
    let gated := p.attr.blinkEnable = true ∧ 128 ≤ a.toNat ∧ blink = false
    let underlined := a &&& 0x77 = 0x01 ∧ row = p.crtc.underlineLocation
    let forced := p.attr.monoAttr = true ∧ a ∈ par.monoForcedBg
    let nib :=
      if p.gfx.textMode = false then fg
      else if gated then bg
      else if underlined then fg
      else if forced then bg
      else if font then fg else bg
    let shown := BitVec.ofNat 4 nib &&& p.attr.colorPlaneEnable
    attrEntry par p a font blink row =
      if p.attr.attrMode = 1 then BitVec.ofNat 8 shown.toNat else p.attr.palette16.toList.getD shown.toNat 0

/-- R294, R295, R297: the three attribute variants on the unit in the stage registers (log 4). That ATTR.16 takes
the low byte of the unit alone, also of a 16-bit attribute word, is the model's reading (log 26), as it is that a
reserved blink rate stops only a lookup that needs the blink phase (log 11). -/
def Obligations.AttributeVariants : Prop :=
  ∀ s : State,
    (s.pipe.ai = none → ∀ i ∈ [Instr.attr4, Instr.attr8, Instr.attr16],
      exec i s = .next { s with pipe := { s.pipe with val := none } }) ∧
    (∀ ai, s.pipe.ai = some ai → (s.P.attr.textBlinkSel ≠ 3 ∨ ¬NeedsTextBlink s.P ai) →
      exec .attr4 s = .next { s with
        pipe := { s.pipe with val := some (AttrValue.mk ((entryOf s ai).setWidth 16) 1) } }) ∧
    (∀ ai, s.pipe.ai = some ai → (s.P.attr.textBlinkSel ≠ 3 ∨ ¬NeedsTextBlink s.P ai) → ai.phase = false →
      exec .attr8 s = .next { s with
        S := { s.S with attrLatch := entryOf s ai &&& 0x0F }
        pipe := { s.pipe with val := none } }) ∧
    (∀ ai, s.pipe.ai = some ai → (s.P.attr.textBlinkSel ≠ 3 ∨ ¬NeedsTextBlink s.P ai) → ai.phase = true →
      let v := BitVec.ofNat 16 (s.S.attrLatch.toNat % 16 * 16 + (entryOf s ai).toNat % 16)
      exec .attr8 s = .next { s with pipe := { s.pipe with val := some (AttrValue.mk v 1) } }) ∧
    (∀ ai, s.pipe.ai = some ai → ai.phase = false →
      exec .attr16 s = .next { s with
        S := { s.S with attrLatch := ai.attr.extractLsb' 0 8 }
        pipe := { s.pipe with val := none } }) ∧
    (∀ ai, s.pipe.ai = some ai → ai.phase = true →
      let v := BitVec.ofNat 16 (ai.attr.toNat % 256 * 256 + s.S.attrLatch.toNat)
      exec .attr16 s = .next { s with pipe := { s.pipe with val := some (AttrValue.mk v 2) } })

/-! ### DAC -/

/-- R311, R313: DAC.8 latches nothing: the low byte is the palette index. The stage registers it works on are
the model's (log 4). -/
def Obligations.PaletteDepth : Prop :=
  ∀ s : State,
    (s.pipe.val = none → exec .dac8 s = .next { s with pipe := { s.pipe with raw := none, rgba := none } }) ∧
    ∀ v, s.pipe.val = some v →
      exec .dac8 s = .next { s with
        S := { s.S with lastColor := BitVec.ofNat 32 (v.value.toNat % 256) }
        pipe := { s.pipe with
          raw := some (BitVec.ofNat 32 (v.value.toNat % 256))
          rgba := some (effective s (v.value.extractLsb' 0 8)) } }

/-- R311, R312, R315: the direct-colour depths take 2, 2, 3 and 4 bytes; with no value and with one byte:
latched, and converted when the count is reached; a two-byte value is its low byte and then its high byte (R290).
The stage registers keep the raw colour as converted, which is byte-swapped exactly if `P.dac_swap` is set and the
depth is not MODE8: log 4. -/
def Obligations.DirectDepths : Prop :=
  directDepths.map (fun d => need d.1) = [2, 2, 3, 4] ∧
  (∀ (s : State) (mode : DacMode) (raw : BitVec 32), presented s mode raw =
    if s.P.dac.dacSwap = true ∧ mode ≠ .m8 then swapBytes raw (need mode) else raw) ∧
  (∀ (s : State) (mode : DacMode) (i : Instr), (mode, i) ∈ directDepths →
    (s.pipe.val = none → exec i s = .next { s with pipe := { s.pipe with raw := none, rgba := none } }) ∧
    ∀ v, s.pipe.val = some ⟨v, 1⟩ →
      let latch := latchAfter (need mode) s.S.dacLatch (v.extractLsb' 0 8)
      (s.S.dacCount.toNat + 1 = need mode → exec i s = .next { s with
        S := { s.S with dacLatch := latch, dacCount := 0, lastColor := latch }
        pipe := { s.pipe with
          raw := some (presented s mode latch), rgba := some (depthColour s mode (presented s mode latch)) } }) ∧
      (s.S.dacCount.toNat + 1 ≠ need mode → exec i s = .next { s with
        S := { s.S with dacLatch := latch, dacCount := s.S.dacCount + 1 }
        pipe := { s.pipe with raw := none, rgba := none } })) ∧
  ∀ (s t u : State) (mode : DacMode) (i : Instr) (lo hi : Byte), (mode, i) ∈ directDepths →
    s.pipe.val = some ⟨hi ++ lo, 2⟩ →
    exec i { s with pipe := { s.pipe with val := some ⟨lo.setWidth 16, 1⟩ } } = .next t →
    exec i { t with pipe := { t.pipe with val := some ⟨hi.setWidth 16, 1⟩ } } = .next u →
      exec i s = .next { s with
        S := u.S
        pipe := { s.pipe with raw := u.pipe.raw.or t.pipe.raw, rgba := u.pipe.rgba.or t.pipe.rgba } }

/-- R311, R327: from a latch that is empty, or holds no more than a pixel of the same depth, the bytes of one
pixel give nothing until the last, and then the raw colour with the first byte lowest. -/
def Obligations.LatchOrder : Prop :=
  ∀ (s : State) (mode : DacMode) (bytes : List Byte), mode ≠ .m8 → s.S.dacCount = 0 →
    s.S.dacLatch.toNat < 2 ^ (8 * need mode) →
    (bytes.length < need mode → (latchBytes (need mode) bytes none s).1 = none) ∧
    (bytes.length = need mode → ∃ raw t, latchBytes (need mode) bytes none s = (some raw, t) ∧
      t.S.dacCount = 0 ∧ t.S.lastColor = raw ∧
      ∀ k, k < need mode → raw.toNat / 2 ^ (8 * k) % 256 = (bytes.getD k 0).toNat)

/-- R314, R316, R317, R319: the fields of the direct colours and their widening. -/
def Obligations.ColourFields : Prop :=
  ∀ (s : State) (c : BitVec 32),
    (let p := depthColour s .m15 c
     p.r.toNat = widened c 10 5 ∧ p.g.toNat = widened c 5 5 ∧ p.b.toNat = widened c 0 5 ∧ p.a = 0xFF) ∧
    (let p := depthColour s .m16 c
     p.r.toNat = widened c 11 5 ∧ p.g.toNat = widened c 5 6 ∧ p.b.toNat = widened c 0 5 ∧ p.a = 0xFF) ∧
    (let p := depthColour s .m24 c
     p.r.toNat = c.toNat / 2 ^ 16 % 256 ∧ p.g.toNat = c.toNat / 2 ^ 8 % 256 ∧ p.b.toNat = c.toNat % 256 ∧
       p.a = 0xFF) ∧
    (let p := depthColour s .m32 c
     p.r.toNat = c.toNat / 2 ^ 16 % 256 ∧ p.g.toNat = c.toNat / 2 ^ 8 % 256 ∧ p.b.toNat = c.toNat % 256 ∧
       p.a.toNat = c.toNat / 2 ^ 24)

/-- R315: the byte swap reverses the `n` low bytes and leaves nothing above them, and DAC.SWAP applies it to the
raw colour in the stage registers (log 4) with the byte count of `P.dac_mode`. -/
def Obligations.ByteSwap : Prop :=
  (∀ (raw : BitVec 32) (n k : Nat), n ≤ 4 → k < n →
    byteOf (swapBytes raw n) k = byteOf raw (n - 1 - k)) ∧
  (∀ (raw : BitVec 32) (n : Nat), n ≤ 4 → (swapBytes raw n).toNat < 2 ^ (8 * n)) ∧
  (∀ (s : State) (mode : DacMode), dacModeOf s.P.dac.dacMode = .ok mode →
    exec .dacSwap s = .next { s with
      pipe := { s.pipe with raw := s.pipe.raw.map fun raw => swapBytes raw (need mode) } })

/-- R318, R321 to R325: the colour stages on the colour in the stage registers, with the arithmetic of the
component widening and of the luminance, whose method is the one that `P.lum_method` selects. That they act under
any `P.dac_mode`, and with no colour there have nothing to act on, is the model's choice (log 4). -/
def Obligations.ColourStages : Prop :=
  (∀ v : Byte, (expand8 .six v).toNat = v.toNat % 64 * 4 + v.toNat % 64 / 16 ∧ expand8 .eight v = v) ∧
  (∀ (s : State) (c : Rgba), (lum s c).toNat =
    if s.P.dac.lumMethod then (c.r.toNat + c.g.toNat + c.b.toNat) / 3
    else (s.par.lumW.r * c.r.toNat + s.par.lumW.g * c.g.toNat + s.par.lumW.b * c.b.toNat) /
      (s.par.lumW.r + s.par.lumW.g + s.par.lumW.b)) ∧
  ∀ s : State,
    (∀ c, s.pipe.rgba = some c →
      let lut : Rgba := ⟨expand8 s.par.dacBits (palAt s.pal c.r 0), expand8 s.par.dacBits (palAt s.pal c.g 1),
        expand8 s.par.dacBits (palAt s.pal c.b 2), c.a⟩
      let lev : Rgba := ⟨s.par.dacLevel.getD c.r.toNat c.r, s.par.dacLevel.getD c.g.toNat c.g,
        s.par.dacLevel.getD c.b.toNat c.b, c.a⟩
      exec .dacLut s = .next { s with pipe := { s.pipe with rgba := some lut } } ∧
      exec .monoColour s = .next s ∧
      (∀ x ∈ [(Instr.monoWhite, s.par.tintWhite), (Instr.monoGreen, s.par.tintGreen),
          (Instr.monoAmber, s.par.tintAmber)],
        ∃ p : Rgba, exec x.1 s = .next { s with pipe := { s.pipe with rgba := some p } } ∧ p.a = c.a ∧
          p.r.toNat = x.2.r.toNat * (lum s c).toNat / 255 ∧ p.g.toNat = x.2.g.toNat * (lum s c).toNat / 255 ∧
          p.b.toNat = x.2.b.toNat * (lum s c).toNat / 255) ∧
      exec .dacLevel s = .next { s with pipe := { s.pipe with rgba := some lev } } ∧
      exec .dacOff s = .next { s with pipe := { s.pipe with rgba := some ⟨0, 0, 0, 0xFF⟩ } }) ∧
    (s.pipe.rgba = none → ∀ i ∈ [Instr.dacLut, Instr.monoColour, Instr.monoWhite, Instr.monoGreen,
        Instr.monoAmber, Instr.lumWeighted, Instr.lumUnweighted, Instr.dacLevel, Instr.dacOff],
      exec i s = .next s)

/-- R322, R332, log 4: both luminance methods are exact truncating divisions that fit a byte. -/
def Obligations.Luminance : Prop :=
  ∀ (s : State) (c : Rgba), s.pipe.rgba = some c →
    (∃ l : Byte, exec .lumWeighted s = .next { s with result := .byte l } ∧
      l.toNat = (s.par.lumW.r * c.r.toNat + s.par.lumW.g * c.g.toNat + s.par.lumW.b * c.b.toNat) /
        (s.par.lumW.r + s.par.lumW.g + s.par.lumW.b)) ∧
    (∃ l : Byte, exec .lumUnweighted s = .next { s with result := .byte l } ∧
      l.toNat = (c.r.toNat + c.g.toNat + c.b.toNat) / 3)

/-! ### Invariants -/

/-- R40, R47, R57, R142, R56: canonical stores, registers within their masks, palette within `DAC_BITS` and
counters within 0, 1, 2 stay so under every step. -/
def Obligations.StepKeepsStores : Prop :=
  ∀ s t : State, Canonical s → RegistersMasked s → PaletteInWidth s → step s = .next t →
    Canonical t ∧ RegistersMasked t ∧ PaletteInWidth t

/-- R173, R178: without an extension hook, `P = Derive(REG)` and tables that are zero or built from `P`
hold between any two steps. -/
def Obligations.StepKeepsPrecalc : Prop :=
  ∀ s t : State, s.par.precalcExt = false → s.reg.wf = true → PrecalcCurrent s → TablesCurrent s →
    step s = .next t → t.par.precalcExt = false ∧ t.reg.wf = true ∧ PrecalcCurrent t ∧ TablesCurrent t

/-- R342, R30: the output row is the row counter, and CRTC addresses stay within `MEMADDR_BITS`, at every
step. -/
def Obligations.StepKeepsCounters : Prop :=
  ∀ s t : State, CountersInStep s → step s = .next t → CountersInStep t

/-- R380: the state after RESET meets every invariant above. -/
def Obligations.ResetMeetsInvariants : Prop :=
  Canonical State.reset ∧ RegistersMasked State.reset ∧ PaletteInWidth State.reset ∧
    PrecalcCurrent State.reset ∧ TablesCurrent State.reset ∧ CountersInStep State.reset ∧
    State.reset.par.precalcExt = false

/-- R20, R70: who may write what, group by group; of the runtime registers a recompute clears the three
part-filled latches at most (R182), PENPOS writes the pen fields and WAITVBL one flag. That the schedule
(log 1), the lock holder and the callers inside a wait (log 2; under RESET log 3), the count of operations
(log 8) and the events already emitted (log 13) are written by no operation but WAITVBL's own wait, and that
the decoded unit stands in a stage register (log 4), is the model's choice. -/
def Obligations.OnlyOwnersWrite : Prop :=
  ∀ (i : Instr) (s t : State), exec i s = .next t →
    (t.par = s.par ∧ t.queue = s.queue ∧ t.actor = s.actor ∧ t.epoch = s.epoch ∧
      ∃ new, t.events = new ++ s.events) ∧
    (writesRegisters i = false → t.reg = s.reg ∧ t.pal = s.pal) ∧
    (writesPrecalc i = false → t.P = s.P ∧ t.htab = s.htab ∧ t.vtab = s.vtab) ∧
    (stepsPalette i = false → t.dacs = s.dacs) ∧
    (writesVram i = false → t.vram = s.vram) ∧
    (i ≠ .waitvbl → t.waiters = s.waiters) ∧
    (writesRuntime i = false → t.S = s.S) ∧
    (writesPrecalc i = true → i ≠ .reset → t.S = { s.S with
      dacCount := t.S.dacCount, dacLatch := t.S.dacLatch, attrLatch := t.S.attrLatch }) ∧
    (i = .waitvbl → t.S = { s.S with vblankFlag := t.S.vblankFlag }) ∧
    (∀ x y, i = .penpos x y → t.S = { s.S with penX := x, penY := y }) ∧
    (writesPen i = false → t.S.penX = s.S.penX ∧ t.S.penY = s.S.penY) ∧
    (writesUnit i = false → t.pipe.ai = s.pipe.ai)

end
end

