-- ==== Sys2Proof/Laws/Colour.lean ====
section
/-! SUPPORT. What the colour stages look at: the parameters, `P` and the palette. -/

namespace Sys2Proof.Machine

/-- A colour stage looks at the parameters and `P`. -/
theorem level_congr {s t : State} (hp : t.par = s.par) (c : Rgba) : level t c = level s c := by
  simp only [level, hp]

theorem lum_congr {s t : State} (hp : t.par = s.par) (hP : t.P = s.P) (c : Rgba) : lum t c = lum s c := by
  simp only [lum, hp, hP]

theorem monoIn_congr {s t : State} (hp : t.par = s.par) (hP : t.P = s.P) (m : MonoMode) (c : Rgba) :
    monoIn t m c = monoIn s m c := by
  simp only [monoIn, hp, lum_congr hp hP]

theorem mono_congr {s t : State} (hp : t.par = s.par) (hP : t.P = s.P) (c : Rgba) : mono t c = mono s c := by
  simp only [mono, hP, monoIn_congr hp hP]

theorem effective_congr {s t : State} (hp : t.par = s.par) (hP : t.P = s.P) (hl : t.pal = s.pal) (i : Byte) :
    effective t i = effective s i := by
  simp only [effective, level_congr hp, mono_congr hp hP, paletteColour, hp, hP, hl]

theorem lutColour_congr {s t : State} (hp : t.par = s.par) (hl : t.pal = s.pal) (c : Rgba) :
    lutColour t c = lutColour s c := by
  simp only [lutColour, hp, hl]

theorem presented_congr {s t : State} (hP : t.P = s.P) (m : DacMode) (raw : BitVec 32) :
    presented t m raw = presented s m raw := by
  simp only [presented, hP]

theorem depthColour_congr {s t : State} (hp : t.par = s.par) (hP : t.P = s.P) (hl : t.pal = s.pal)
    (m : DacMode) (c : BitVec 32) : depthColour t m c = depthColour s m c := by
  simp only [depthColour, effective_congr hp hP hl]

theorem dacOffOf_congr {s t : State} (hP : t.P = s.P) (c : Rgba) : dacOffOf t c = dacOffOf s c := by
  simp only [dacOffOf, hP]

theorem finish_congr {s t : State} (hp : t.par = s.par) (hP : t.P = s.P) (hl : t.pal = s.pal) (m : DacMode)
    (c : Rgba) : finish t m c = finish s m c := by
  simp only [finish, level_congr hp, mono_congr hp hP, lutColour_congr hp hl, hP]

/-- The whole conversion looks at the parameters, `P` and the palette (R312). -/
theorem dacConvertIn_congr {s t : State} (hp : t.par = s.par) (hP : t.P = s.P) (hl : t.pal = s.pal)
    (m : DacMode) (raw : BitVec 32) : dacConvertIn t m raw = dacConvertIn s m raw := by
  simp only [dacConvertIn, presented_congr hP, depthColour_congr hp hP hl, finish_congr hp hP hl,
    dacOffOf_congr hP]

end Sys2Proof.Machine
end

