-- ==== Sys2Proof/Laws/Encoding.lean ====
section
/-! SUPPORT. Fields put into a word come out of it again. -/

namespace Sys2Proof

/-! ### A host operation word from its fields -/

@[simp] theorem hopOp_hopWord (op a b c : Byte) (d : BitVec 32) : hopOp (hopWord op a b c d) = op := by
  unfold hopOp hopWord
  ext i hi
  simp [BitVec.getElem_extractLsb']
  grind

@[simp] theorem hopA_hopWord (op a b c : Byte) (d : BitVec 32) : hopA (hopWord op a b c d) = a := by
  unfold hopA hopWord
  ext i hi
  simp [BitVec.getElem_extractLsb']
  grind

@[simp] theorem hopB_hopWord (op a b c : Byte) (d : BitVec 32) : hopB (hopWord op a b c d) = b := by
  unfold hopB hopWord
  ext i hi
  simp [BitVec.getElem_extractLsb']
  grind

@[simp] theorem hopC_hopWord (op a b c : Byte) (d : BitVec 32) : hopC (hopWord op a b c d) = c := by
  unfold hopC hopWord
  ext i hi
  simp [BitVec.getElem_extractLsb']
  grind

@[simp] theorem hopD_hopWord (op a b c : Byte) (d : BitVec 32) : hopD (hopWord op a b c d) = d := by
  unfold hopD hopWord
  ext i hi
  simp [BitVec.getElem_extractLsb']
  grind

/-! ### PENPOS's packed coordinates (R155) -/

theorem penWord_x (x : BitVec 15) (y : BitVec 12) : ((0#4) ++ y ++ (0#1) ++ x).extractLsb' 0 15 = x := by
  ext i hi
  simp [BitVec.getElem_extractLsb']
  grind

theorem penWord_y (x : BitVec 15) (y : BitVec 12) : ((0#4) ++ y ++ (0#1) ++ x).extractLsb' 16 12 = y := by
  ext i hi
  simp [BitVec.getElem_extractLsb']
  grind

/-- Words that agree under a mask agree in every bit the mask has. -/
theorem getLsbD_of_masked {n : Nat} {w w' m : BitVec n} (h : w &&& m = w' &&& m) {k : Nat}
    (hk : m.getLsbD k = true) : w.getLsbD k = w'.getLsbD k := by
  have := congrArg (·.getLsbD k) h
  simpa [hk] using this

end Sys2Proof
end

