-- ==== Sys2Proof/Laws/State.lean ====
section
/-! SUPPORT. What each field update of the state leaves in each field. -/

namespace Sys2Proof.Machine

/-! ### `setReg` -/

@[simp] theorem State.setReg_par (s : State) (m : Memory) : (s.setReg m).par = s.par := rfl
@[simp] theorem State.setReg_reg (s : State) (m : Memory) : (s.setReg m).reg = m := rfl
@[simp] theorem State.setReg_P (s : State) (m : Memory) : (s.setReg m).P = s.P := rfl
@[simp] theorem State.setReg_htab (s : State) (m : Memory) : (s.setReg m).htab = s.htab := rfl
@[simp] theorem State.setReg_vtab (s : State) (m : Memory) : (s.setReg m).vtab = s.vtab := rfl
@[simp] theorem State.setReg_S (s : State) (m : Memory) : (s.setReg m).S = s.S := rfl
@[simp] theorem State.setReg_pal (s : State) (m : Memory) : (s.setReg m).pal = s.pal := rfl
@[simp] theorem State.setReg_dacs (s : State) (m : Memory) : (s.setReg m).dacs = s.dacs := rfl
@[simp] theorem State.setReg_vram (s : State) (m : Memory) : (s.setReg m).vram = s.vram := rfl
@[simp] theorem State.setReg_events (s : State) (m : Memory) : (s.setReg m).events = s.events := rfl
@[simp] theorem State.setReg_result (s : State) (m : Memory) : (s.setReg m).result = s.result := rfl
@[simp] theorem State.setReg_pipe (s : State) (m : Memory) : (s.setReg m).pipe = s.pipe := rfl
@[simp] theorem State.setReg_queue (s : State) (m : Memory) : (s.setReg m).queue = s.queue := rfl
@[simp] theorem State.setReg_actor (s : State) (m : Memory) : (s.setReg m).actor = s.actor := rfl
@[simp] theorem State.setReg_waiters (s : State) (m : Memory) : (s.setReg m).waiters = s.waiters := rfl
@[simp] theorem State.setReg_epoch (s : State) (m : Memory) : (s.setReg m).epoch = s.epoch := rfl

/-! ### `setP` -/

@[simp] theorem State.setP_par (s : State) (p : Precalc) : (s.setP p).par = s.par := rfl
@[simp] theorem State.setP_reg (s : State) (p : Precalc) : (s.setP p).reg = s.reg := rfl
@[simp] theorem State.setP_P (s : State) (p : Precalc) : (s.setP p).P = p := rfl
@[simp] theorem State.setP_htab (s : State) (p : Precalc) : (s.setP p).htab = s.htab := rfl
@[simp] theorem State.setP_vtab (s : State) (p : Precalc) : (s.setP p).vtab = s.vtab := rfl
@[simp] theorem State.setP_S (s : State) (p : Precalc) : (s.setP p).S = s.S := rfl
@[simp] theorem State.setP_pal (s : State) (p : Precalc) : (s.setP p).pal = s.pal := rfl
@[simp] theorem State.setP_dacs (s : State) (p : Precalc) : (s.setP p).dacs = s.dacs := rfl
@[simp] theorem State.setP_vram (s : State) (p : Precalc) : (s.setP p).vram = s.vram := rfl
@[simp] theorem State.setP_events (s : State) (p : Precalc) : (s.setP p).events = s.events := rfl
@[simp] theorem State.setP_result (s : State) (p : Precalc) : (s.setP p).result = s.result := rfl
@[simp] theorem State.setP_pipe (s : State) (p : Precalc) : (s.setP p).pipe = s.pipe := rfl
@[simp] theorem State.setP_queue (s : State) (p : Precalc) : (s.setP p).queue = s.queue := rfl
@[simp] theorem State.setP_actor (s : State) (p : Precalc) : (s.setP p).actor = s.actor := rfl
@[simp] theorem State.setP_waiters (s : State) (p : Precalc) : (s.setP p).waiters = s.waiters := rfl
@[simp] theorem State.setP_epoch (s : State) (p : Precalc) : (s.setP p).epoch = s.epoch := rfl

/-! ### `setTables` -/

@[simp] theorem State.setTables_par (s : State) (h : Option (Breakpoints 15)) (v : Option (Breakpoints 12)) : (s.setTables h v).par = s.par := rfl
@[simp] theorem State.setTables_reg (s : State) (h : Option (Breakpoints 15)) (v : Option (Breakpoints 12)) : (s.setTables h v).reg = s.reg := rfl
@[simp] theorem State.setTables_P (s : State) (h : Option (Breakpoints 15)) (v : Option (Breakpoints 12)) : (s.setTables h v).P = s.P := rfl
@[simp] theorem State.setTables_htab (s : State) (h : Option (Breakpoints 15)) (v : Option (Breakpoints 12)) : (s.setTables h v).htab = h := rfl
@[simp] theorem State.setTables_vtab (s : State) (h : Option (Breakpoints 15)) (v : Option (Breakpoints 12)) : (s.setTables h v).vtab = v := rfl
@[simp] theorem State.setTables_S (s : State) (h : Option (Breakpoints 15)) (v : Option (Breakpoints 12)) : (s.setTables h v).S = s.S := rfl
@[simp] theorem State.setTables_pal (s : State) (h : Option (Breakpoints 15)) (v : Option (Breakpoints 12)) : (s.setTables h v).pal = s.pal := rfl
@[simp] theorem State.setTables_dacs (s : State) (h : Option (Breakpoints 15)) (v : Option (Breakpoints 12)) : (s.setTables h v).dacs = s.dacs := rfl
@[simp] theorem State.setTables_vram (s : State) (h : Option (Breakpoints 15)) (v : Option (Breakpoints 12)) : (s.setTables h v).vram = s.vram := rfl
@[simp] theorem State.setTables_events (s : State) (h : Option (Breakpoints 15)) (v : Option (Breakpoints 12)) : (s.setTables h v).events = s.events := rfl
@[simp] theorem State.setTables_result (s : State) (h : Option (Breakpoints 15)) (v : Option (Breakpoints 12)) : (s.setTables h v).result = s.result := rfl
@[simp] theorem State.setTables_pipe (s : State) (h : Option (Breakpoints 15)) (v : Option (Breakpoints 12)) : (s.setTables h v).pipe = s.pipe := rfl
@[simp] theorem State.setTables_queue (s : State) (h : Option (Breakpoints 15)) (v : Option (Breakpoints 12)) : (s.setTables h v).queue = s.queue := rfl
@[simp] theorem State.setTables_actor (s : State) (h : Option (Breakpoints 15)) (v : Option (Breakpoints 12)) : (s.setTables h v).actor = s.actor := rfl
@[simp] theorem State.setTables_waiters (s : State) (h : Option (Breakpoints 15)) (v : Option (Breakpoints 12)) : (s.setTables h v).waiters = s.waiters := rfl
@[simp] theorem State.setTables_epoch (s : State) (h : Option (Breakpoints 15)) (v : Option (Breakpoints 12)) : (s.setTables h v).epoch = s.epoch := rfl

/-! ### `setS` -/

@[simp] theorem State.setS_par (s : State) (r : Runtime) : (s.setS r).par = s.par := rfl
@[simp] theorem State.setS_reg (s : State) (r : Runtime) : (s.setS r).reg = s.reg := rfl
@[simp] theorem State.setS_P (s : State) (r : Runtime) : (s.setS r).P = s.P := rfl
@[simp] theorem State.setS_htab (s : State) (r : Runtime) : (s.setS r).htab = s.htab := rfl
@[simp] theorem State.setS_vtab (s : State) (r : Runtime) : (s.setS r).vtab = s.vtab := rfl
@[simp] theorem State.setS_S (s : State) (r : Runtime) : (s.setS r).S = r := rfl
@[simp] theorem State.setS_pal (s : State) (r : Runtime) : (s.setS r).pal = s.pal := rfl
@[simp] theorem State.setS_dacs (s : State) (r : Runtime) : (s.setS r).dacs = s.dacs := rfl
@[simp] theorem State.setS_vram (s : State) (r : Runtime) : (s.setS r).vram = s.vram := rfl
@[simp] theorem State.setS_events (s : State) (r : Runtime) : (s.setS r).events = s.events := rfl
@[simp] theorem State.setS_result (s : State) (r : Runtime) : (s.setS r).result = s.result := rfl
@[simp] theorem State.setS_pipe (s : State) (r : Runtime) : (s.setS r).pipe = s.pipe := rfl
@[simp] theorem State.setS_queue (s : State) (r : Runtime) : (s.setS r).queue = s.queue := rfl
@[simp] theorem State.setS_actor (s : State) (r : Runtime) : (s.setS r).actor = s.actor := rfl
@[simp] theorem State.setS_waiters (s : State) (r : Runtime) : (s.setS r).waiters = s.waiters := rfl
@[simp] theorem State.setS_epoch (s : State) (r : Runtime) : (s.setS r).epoch = s.epoch := rfl

/-! ### `setPal` -/

@[simp] theorem State.setPal_par (s : State) (m : Memory) : (s.setPal m).par = s.par := rfl
@[simp] theorem State.setPal_reg (s : State) (m : Memory) : (s.setPal m).reg = s.reg := rfl
@[simp] theorem State.setPal_P (s : State) (m : Memory) : (s.setPal m).P = s.P := rfl
@[simp] theorem State.setPal_htab (s : State) (m : Memory) : (s.setPal m).htab = s.htab := rfl
@[simp] theorem State.setPal_vtab (s : State) (m : Memory) : (s.setPal m).vtab = s.vtab := rfl
@[simp] theorem State.setPal_S (s : State) (m : Memory) : (s.setPal m).S = s.S := rfl
@[simp] theorem State.setPal_pal (s : State) (m : Memory) : (s.setPal m).pal = m := rfl
@[simp] theorem State.setPal_dacs (s : State) (m : Memory) : (s.setPal m).dacs = s.dacs := rfl
@[simp] theorem State.setPal_vram (s : State) (m : Memory) : (s.setPal m).vram = s.vram := rfl
@[simp] theorem State.setPal_events (s : State) (m : Memory) : (s.setPal m).events = s.events := rfl
@[simp] theorem State.setPal_result (s : State) (m : Memory) : (s.setPal m).result = s.result := rfl
@[simp] theorem State.setPal_pipe (s : State) (m : Memory) : (s.setPal m).pipe = s.pipe := rfl
@[simp] theorem State.setPal_queue (s : State) (m : Memory) : (s.setPal m).queue = s.queue := rfl
@[simp] theorem State.setPal_actor (s : State) (m : Memory) : (s.setPal m).actor = s.actor := rfl
@[simp] theorem State.setPal_waiters (s : State) (m : Memory) : (s.setPal m).waiters = s.waiters := rfl
@[simp] theorem State.setPal_epoch (s : State) (m : Memory) : (s.setPal m).epoch = s.epoch := rfl

/-! ### `setDacs` -/

@[simp] theorem State.setDacs_par (s : State) (d : Dacs) : (s.setDacs d).par = s.par := rfl
@[simp] theorem State.setDacs_reg (s : State) (d : Dacs) : (s.setDacs d).reg = s.reg := rfl
@[simp] theorem State.setDacs_P (s : State) (d : Dacs) : (s.setDacs d).P = s.P := rfl
@[simp] theorem State.setDacs_htab (s : State) (d : Dacs) : (s.setDacs d).htab = s.htab := rfl
@[simp] theorem State.setDacs_vtab (s : State) (d : Dacs) : (s.setDacs d).vtab = s.vtab := rfl
@[simp] theorem State.setDacs_S (s : State) (d : Dacs) : (s.setDacs d).S = s.S := rfl
@[simp] theorem State.setDacs_pal (s : State) (d : Dacs) : (s.setDacs d).pal = s.pal := rfl
@[simp] theorem State.setDacs_dacs (s : State) (d : Dacs) : (s.setDacs d).dacs = d := rfl
@[simp] theorem State.setDacs_vram (s : State) (d : Dacs) : (s.setDacs d).vram = s.vram := rfl
@[simp] theorem State.setDacs_events (s : State) (d : Dacs) : (s.setDacs d).events = s.events := rfl
@[simp] theorem State.setDacs_result (s : State) (d : Dacs) : (s.setDacs d).result = s.result := rfl
@[simp] theorem State.setDacs_pipe (s : State) (d : Dacs) : (s.setDacs d).pipe = s.pipe := rfl
@[simp] theorem State.setDacs_queue (s : State) (d : Dacs) : (s.setDacs d).queue = s.queue := rfl
@[simp] theorem State.setDacs_actor (s : State) (d : Dacs) : (s.setDacs d).actor = s.actor := rfl
@[simp] theorem State.setDacs_waiters (s : State) (d : Dacs) : (s.setDacs d).waiters = s.waiters := rfl
@[simp] theorem State.setDacs_epoch (s : State) (d : Dacs) : (s.setDacs d).epoch = s.epoch := rfl

/-! ### `setVram` -/

@[simp] theorem State.setVram_par (s : State) (m : Memory) : (s.setVram m).par = s.par := rfl
@[simp] theorem State.setVram_reg (s : State) (m : Memory) : (s.setVram m).reg = s.reg := rfl
@[simp] theorem State.setVram_P (s : State) (m : Memory) : (s.setVram m).P = s.P := rfl
@[simp] theorem State.setVram_htab (s : State) (m : Memory) : (s.setVram m).htab = s.htab := rfl
@[simp] theorem State.setVram_vtab (s : State) (m : Memory) : (s.setVram m).vtab = s.vtab := rfl
@[simp] theorem State.setVram_S (s : State) (m : Memory) : (s.setVram m).S = s.S := rfl
@[simp] theorem State.setVram_pal (s : State) (m : Memory) : (s.setVram m).pal = s.pal := rfl
@[simp] theorem State.setVram_dacs (s : State) (m : Memory) : (s.setVram m).dacs = s.dacs := rfl
@[simp] theorem State.setVram_vram (s : State) (m : Memory) : (s.setVram m).vram = m := rfl
@[simp] theorem State.setVram_events (s : State) (m : Memory) : (s.setVram m).events = s.events := rfl
@[simp] theorem State.setVram_result (s : State) (m : Memory) : (s.setVram m).result = s.result := rfl
@[simp] theorem State.setVram_pipe (s : State) (m : Memory) : (s.setVram m).pipe = s.pipe := rfl
@[simp] theorem State.setVram_queue (s : State) (m : Memory) : (s.setVram m).queue = s.queue := rfl
@[simp] theorem State.setVram_actor (s : State) (m : Memory) : (s.setVram m).actor = s.actor := rfl
@[simp] theorem State.setVram_waiters (s : State) (m : Memory) : (s.setVram m).waiters = s.waiters := rfl
@[simp] theorem State.setVram_epoch (s : State) (m : Memory) : (s.setVram m).epoch = s.epoch := rfl

/-! ### `setResult` -/

@[simp] theorem State.setResult_par (s : State) (r : Result) : (s.setResult r).par = s.par := rfl
@[simp] theorem State.setResult_reg (s : State) (r : Result) : (s.setResult r).reg = s.reg := rfl
@[simp] theorem State.setResult_P (s : State) (r : Result) : (s.setResult r).P = s.P := rfl
@[simp] theorem State.setResult_htab (s : State) (r : Result) : (s.setResult r).htab = s.htab := rfl
@[simp] theorem State.setResult_vtab (s : State) (r : Result) : (s.setResult r).vtab = s.vtab := rfl
@[simp] theorem State.setResult_S (s : State) (r : Result) : (s.setResult r).S = s.S := rfl
@[simp] theorem State.setResult_pal (s : State) (r : Result) : (s.setResult r).pal = s.pal := rfl
@[simp] theorem State.setResult_dacs (s : State) (r : Result) : (s.setResult r).dacs = s.dacs := rfl
@[simp] theorem State.setResult_vram (s : State) (r : Result) : (s.setResult r).vram = s.vram := rfl
@[simp] theorem State.setResult_events (s : State) (r : Result) : (s.setResult r).events = s.events := rfl
@[simp] theorem State.setResult_result (s : State) (r : Result) : (s.setResult r).result = r := rfl
@[simp] theorem State.setResult_pipe (s : State) (r : Result) : (s.setResult r).pipe = s.pipe := rfl
@[simp] theorem State.setResult_queue (s : State) (r : Result) : (s.setResult r).queue = s.queue := rfl
@[simp] theorem State.setResult_actor (s : State) (r : Result) : (s.setResult r).actor = s.actor := rfl
@[simp] theorem State.setResult_waiters (s : State) (r : Result) : (s.setResult r).waiters = s.waiters := rfl
@[simp] theorem State.setResult_epoch (s : State) (r : Result) : (s.setResult r).epoch = s.epoch := rfl

/-! ### `setPipe` -/

@[simp] theorem State.setPipe_par (s : State) (p : Pipe) : (s.setPipe p).par = s.par := rfl
@[simp] theorem State.setPipe_reg (s : State) (p : Pipe) : (s.setPipe p).reg = s.reg := rfl
@[simp] theorem State.setPipe_P (s : State) (p : Pipe) : (s.setPipe p).P = s.P := rfl
@[simp] theorem State.setPipe_htab (s : State) (p : Pipe) : (s.setPipe p).htab = s.htab := rfl
@[simp] theorem State.setPipe_vtab (s : State) (p : Pipe) : (s.setPipe p).vtab = s.vtab := rfl
@[simp] theorem State.setPipe_S (s : State) (p : Pipe) : (s.setPipe p).S = s.S := rfl
@[simp] theorem State.setPipe_pal (s : State) (p : Pipe) : (s.setPipe p).pal = s.pal := rfl
@[simp] theorem State.setPipe_dacs (s : State) (p : Pipe) : (s.setPipe p).dacs = s.dacs := rfl
@[simp] theorem State.setPipe_vram (s : State) (p : Pipe) : (s.setPipe p).vram = s.vram := rfl
@[simp] theorem State.setPipe_events (s : State) (p : Pipe) : (s.setPipe p).events = s.events := rfl
@[simp] theorem State.setPipe_result (s : State) (p : Pipe) : (s.setPipe p).result = s.result := rfl
@[simp] theorem State.setPipe_pipe (s : State) (p : Pipe) : (s.setPipe p).pipe = p := rfl
@[simp] theorem State.setPipe_queue (s : State) (p : Pipe) : (s.setPipe p).queue = s.queue := rfl
@[simp] theorem State.setPipe_actor (s : State) (p : Pipe) : (s.setPipe p).actor = s.actor := rfl
@[simp] theorem State.setPipe_waiters (s : State) (p : Pipe) : (s.setPipe p).waiters = s.waiters := rfl
@[simp] theorem State.setPipe_epoch (s : State) (p : Pipe) : (s.setPipe p).epoch = s.epoch := rfl

/-! ### `setWaiters` -/

@[simp] theorem State.setWaiters_par (s : State) (w : List Nat) : (s.setWaiters w).par = s.par := rfl
@[simp] theorem State.setWaiters_reg (s : State) (w : List Nat) : (s.setWaiters w).reg = s.reg := rfl
@[simp] theorem State.setWaiters_P (s : State) (w : List Nat) : (s.setWaiters w).P = s.P := rfl
@[simp] theorem State.setWaiters_htab (s : State) (w : List Nat) : (s.setWaiters w).htab = s.htab := rfl
@[simp] theorem State.setWaiters_vtab (s : State) (w : List Nat) : (s.setWaiters w).vtab = s.vtab := rfl
@[simp] theorem State.setWaiters_S (s : State) (w : List Nat) : (s.setWaiters w).S = s.S := rfl
@[simp] theorem State.setWaiters_pal (s : State) (w : List Nat) : (s.setWaiters w).pal = s.pal := rfl
@[simp] theorem State.setWaiters_dacs (s : State) (w : List Nat) : (s.setWaiters w).dacs = s.dacs := rfl
@[simp] theorem State.setWaiters_vram (s : State) (w : List Nat) : (s.setWaiters w).vram = s.vram := rfl
@[simp] theorem State.setWaiters_events (s : State) (w : List Nat) : (s.setWaiters w).events = s.events := rfl
@[simp] theorem State.setWaiters_result (s : State) (w : List Nat) : (s.setWaiters w).result = s.result := rfl
@[simp] theorem State.setWaiters_pipe (s : State) (w : List Nat) : (s.setWaiters w).pipe = s.pipe := rfl
@[simp] theorem State.setWaiters_queue (s : State) (w : List Nat) : (s.setWaiters w).queue = s.queue := rfl
@[simp] theorem State.setWaiters_actor (s : State) (w : List Nat) : (s.setWaiters w).actor = s.actor := rfl
@[simp] theorem State.setWaiters_waiters (s : State) (w : List Nat) : (s.setWaiters w).waiters = w := rfl
@[simp] theorem State.setWaiters_epoch (s : State) (w : List Nat) : (s.setWaiters w).epoch = s.epoch := rfl

/-! ### `emit` -/

@[simp] theorem State.emit_par (s : State) (e : Event) : (s.emit e).par = s.par := rfl
@[simp] theorem State.emit_reg (s : State) (e : Event) : (s.emit e).reg = s.reg := rfl
@[simp] theorem State.emit_P (s : State) (e : Event) : (s.emit e).P = s.P := rfl
@[simp] theorem State.emit_htab (s : State) (e : Event) : (s.emit e).htab = s.htab := rfl
@[simp] theorem State.emit_vtab (s : State) (e : Event) : (s.emit e).vtab = s.vtab := rfl
@[simp] theorem State.emit_S (s : State) (e : Event) : (s.emit e).S = s.S := rfl
@[simp] theorem State.emit_pal (s : State) (e : Event) : (s.emit e).pal = s.pal := rfl
@[simp] theorem State.emit_dacs (s : State) (e : Event) : (s.emit e).dacs = s.dacs := rfl
@[simp] theorem State.emit_vram (s : State) (e : Event) : (s.emit e).vram = s.vram := rfl
@[simp] theorem State.emit_events (s : State) (e : Event) : (s.emit e).events = e :: s.events := rfl
@[simp] theorem State.emit_result (s : State) (e : Event) : (s.emit e).result = s.result := rfl
@[simp] theorem State.emit_pipe (s : State) (e : Event) : (s.emit e).pipe = s.pipe := rfl
@[simp] theorem State.emit_queue (s : State) (e : Event) : (s.emit e).queue = s.queue := rfl
@[simp] theorem State.emit_actor (s : State) (e : Event) : (s.emit e).actor = s.actor := rfl
@[simp] theorem State.emit_waiters (s : State) (e : Event) : (s.emit e).waiters = s.waiters := rfl
@[simp] theorem State.emit_epoch (s : State) (e : Event) : (s.emit e).epoch = s.epoch := rfl

/-! ### `takeTurn` -/

@[simp] theorem State.takeTurn_par (s : State) (a : Nat) (rest : List Request) : (s.takeTurn a rest).par = s.par := rfl
@[simp] theorem State.takeTurn_reg (s : State) (a : Nat) (rest : List Request) : (s.takeTurn a rest).reg = s.reg := rfl
@[simp] theorem State.takeTurn_P (s : State) (a : Nat) (rest : List Request) : (s.takeTurn a rest).P = s.P := rfl
@[simp] theorem State.takeTurn_htab (s : State) (a : Nat) (rest : List Request) : (s.takeTurn a rest).htab = s.htab := rfl
@[simp] theorem State.takeTurn_vtab (s : State) (a : Nat) (rest : List Request) : (s.takeTurn a rest).vtab = s.vtab := rfl
@[simp] theorem State.takeTurn_S (s : State) (a : Nat) (rest : List Request) : (s.takeTurn a rest).S = s.S := rfl
@[simp] theorem State.takeTurn_pal (s : State) (a : Nat) (rest : List Request) : (s.takeTurn a rest).pal = s.pal := rfl
@[simp] theorem State.takeTurn_dacs (s : State) (a : Nat) (rest : List Request) : (s.takeTurn a rest).dacs = s.dacs := rfl
@[simp] theorem State.takeTurn_vram (s : State) (a : Nat) (rest : List Request) : (s.takeTurn a rest).vram = s.vram := rfl
@[simp] theorem State.takeTurn_events (s : State) (a : Nat) (rest : List Request) : (s.takeTurn a rest).events = s.events := rfl
@[simp] theorem State.takeTurn_result (s : State) (a : Nat) (rest : List Request) : (s.takeTurn a rest).result = .none := rfl
@[simp] theorem State.takeTurn_pipe (s : State) (a : Nat) (rest : List Request) : (s.takeTurn a rest).pipe = s.pipe := rfl
@[simp] theorem State.takeTurn_queue (s : State) (a : Nat) (rest : List Request) : (s.takeTurn a rest).queue = rest := rfl
@[simp] theorem State.takeTurn_actor (s : State) (a : Nat) (rest : List Request) : (s.takeTurn a rest).actor = a := rfl
@[simp] theorem State.takeTurn_waiters (s : State) (a : Nat) (rest : List Request) : (s.takeTurn a rest).waiters = s.waiters := rfl
@[simp] theorem State.takeTurn_epoch (s : State) (a : Nat) (rest : List Request) : (s.takeTurn a rest).epoch = s.epoch + 1 := rfl

end Sys2Proof.Machine
end

