-- ==== Sys2Proof/Laws/Store.lean ====
section
/-! SUPPORT. The byte store: reading after a write, and the canonical form. -/

namespace Sys2Proof.Machine

/-- The canonical form above a bound: the head lies above it, holds a listed value, and bounds the
tail. -/
theorem Memory.wfAbove_cons (lo : Option Nat) (k : Nat) (v : Byte) (rest : Memory) :
    Memory.wfAbove lo ((k, v) :: rest) = true ↔
      (∀ b, lo = some b → b < k) ∧ v ≠ Memory.unlisted ∧ Memory.wfAbove (some k) rest = true := by
  cases lo <;> simp [Memory.wfAbove, and_assoc]

/-- A lower bound may be lowered. -/
theorem Memory.wfAbove_mono {b : Nat} {lo : Option Nat} (h : ∀ c, lo = some c → c ≤ b) :
    ∀ m : Memory, Memory.wfAbove (some b) m = true → Memory.wfAbove lo m = true
  | [], _ => by simp [Memory.wfAbove]
  | (k, v) :: rest, hm => by
    rw [Memory.wfAbove_cons] at hm ⊢
    refine ⟨fun c hc => ?_, hm.2⟩
    have := hm.1 b rfl
    have := h c hc
    omega

/-- At or below the bound nothing is listed. -/
theorem Memory.read_below {b a : Nat} (hab : a ≤ b) :
    ∀ m : Memory, Memory.wfAbove (some b) m = true → m.read a = Memory.unlisted
  | [], _ => rfl
  | (k, v) :: rest, hm => by
    rw [Memory.wfAbove_cons] at hm
    have hk := hm.1 b rfl
    have hne : a ≠ k := by omega
    simp only [Memory.read, hne, if_false]
    exact Memory.read_below (by omega) rest hm.2.2

/-- A write leaves every other address alone. -/
theorem Memory.read_write_other {a b : Nat} (v : Byte) (hab : b ≠ a) :
    ∀ m : Memory, (m.write a v).read b = m.read b
  | [] => by by_cases hv : v = Memory.unlisted <;> simp [Memory.write, Memory.read, hv, hab]
  | (k, w) :: rest => by
    have ih := Memory.read_write_other (a := a) v hab rest
    unfold Memory.write
    split
    · split <;> simp [Memory.read, hab]
    · split
      · rename_i hk
        subst hk
        split <;> simp [Memory.read, hab]
      · simp [Memory.read, ih]

/-- What was written is read back. -/
theorem Memory.read_write_same (a : Nat) (v : Byte) :
    ∀ (m : Memory) (lo : Option Nat), Memory.wfAbove lo m = true → (m.write a v).read a = v
  | [], _, _ => by by_cases hv : v = Memory.unlisted <;> simp [Memory.write, Memory.read, hv]
  | (k, w) :: rest, lo, hm => by
    have ih := Memory.read_write_same a v rest
    rw [Memory.wfAbove_cons] at hm
    unfold Memory.write
    split
    · rename_i hk
      split
      · rename_i hv
        have hne : a ≠ k := by omega
        simp only [Memory.read, hne, if_false, hv]
        exact Memory.read_below (by omega) rest hm.2.2
      · simp [Memory.read]
    · split
      · rename_i hk
        subst hk
        split
        · rename_i hv
          rw [hv]
          exact Memory.read_below (Nat.le_refl _) rest hm.2.2
        · simp [Memory.read]
      · rename_i hk
        simp only [Memory.read, hk, if_false]
        exact ih (some k) hm.2.2

/-- A write above the bound keeps the canonical form above the bound. -/
theorem Memory.wfAbove_write (a : Nat) (v : Byte) :
    ∀ (m : Memory) (lo : Option Nat), (∀ b, lo = some b → b < a) → Memory.wfAbove lo m = true →
      Memory.wfAbove lo (m.write a v) = true
  | [], lo, hlo, _ => by
    by_cases hv : v = Memory.unlisted
    · simp [Memory.write, hv, Memory.wfAbove]
    · simp only [Memory.write, hv, if_false]
      rw [Memory.wfAbove_cons]
      exact ⟨hlo, hv, rfl⟩
  | (k, w) :: rest, lo, hlo, hm => by
    have ih := Memory.wfAbove_write a v rest
    have hm' := (Memory.wfAbove_cons _ _ _ _).1 hm
    unfold Memory.write
    split
    · rename_i hk
      split
      · exact hm
      · rename_i hv
        rw [Memory.wfAbove_cons, Memory.wfAbove_cons]
        exact ⟨hlo, hv, fun b hb => by cases hb; exact hk, hm'.2⟩
    · split
      · rename_i hk
        subst hk
        split
        · exact Memory.wfAbove_mono (fun c hc => Nat.le_of_lt (hlo c hc)) rest hm'.2.2
        · rename_i hv
          rw [Memory.wfAbove_cons]
          exact ⟨hlo, hv, hm'.2.2⟩
      · rw [Memory.wfAbove_cons]
        exact ⟨hm'.1, hm'.2.1, ih (some k) (fun b hb => by cases hb; omega) hm'.2.2⟩

/-- Every write keeps the canonical form. -/
theorem Memory.wf_write (m : Memory) (a : Nat) (v : Byte) (h : m.wf = true) : (m.write a v).wf = true :=
  Memory.wfAbove_write a v m none (by simp) h

/-- Reading anywhere after a write to a canonical store. -/
theorem Memory.read_write (m : Memory) (a b : Nat) (v : Byte) (h : m.wf = true) :
    (m.write a v).read b = if b = a then v else m.read b := by
  by_cases hb : b = a
  · subst hb
    simp [Memory.read_write_same b v m none h]
  · simp [hb, Memory.read_write_other v hb m]

/-- The empty store is in canonical form. -/
theorem Memory.wf_nil : Memory.wf [] = true := rfl

end Sys2Proof.Machine
end

