-- ==== Sys2Proof/Laws/Recompute.lean ====
section
/-! SUPPORT. What a recompute can do, and which registers each block of the derivation reads. -/

namespace Sys2Proof.Machine

/-- Two registers are kept in one place only if they are the same register. -/
theorem regKey_inj {sec idx sec' idx' : Byte} : regKey sec' idx' = regKey sec idx ↔ sec' = sec ∧ idx' = idx := by
  unfold regKey
  constructor
  · intro h
    have := idx.isLt
    have := idx'.isLt
    constructor <;> apply BitVec.eq_of_toNat_eq <;> omega
  · rintro ⟨rfl, rfl⟩
    rfl

/-- Reading any register after a write to a canonical register file. -/
theorem regAt_write (m : Memory) (sec idx sec' idx' val : Byte) (h : m.wf = true) :
    regAt (m.write (regKey sec idx) val) sec' idx' = if sec' = sec ∧ idx' = idx then val else regAt m sec' idx' := by
  simp only [regAt, Memory.read_write m _ _ _ h, regKey_inj]

/-- A write to one register leaves every other register, canonical or not. -/
theorem regAt_write_other (m : Memory) {sec idx sec' idx' : Byte} (val : Byte) (h : ¬(sec' = sec ∧ idx' = idx)) :
    regAt (m.write (regKey sec idx) val) sec' idx' = regAt m sec' idx' := by
  simp only [regAt]
  exact Memory.read_write_other _ (fun e => h (regKey_inj.1 e)) m

/-- A 12-bit field as a number: the low byte, and the low half of the high byte above it (R50). -/
theorem reg12_toNat (m : Memory) (sec lo : Byte) :
    (reg12 m sec lo).toNat = (regAt m sec lo).toNat + 256 * ((regAt m sec (lo + 1)).toNat % 16) := by
  have := (regAt m sec lo).isLt
  simp only [reg12, BitVec.toNat_append, BitVec.extractLsb'_toNat, Nat.shiftRight_zero]
  rw [Nat.shiftLeft_add_eq_or_of_lt (by omega) _ |>.symm, Nat.shiftLeft_eq]
  omega

/-- A 16-bit field as a number: the low byte, and the high byte above it (R50). -/
theorem reg16_toNat (m : Memory) (sec lo : Byte) :
    (reg16 m sec lo).toNat = (regAt m sec lo).toNat + 256 * (regAt m sec (lo + 1)).toNat := by
  have := (regAt m sec lo).isLt
  simp only [reg16, BitVec.toNat_append]
  rw [Nat.shiftLeft_add_eq_or_of_lt (by omega) _ |>.symm, Nat.shiftLeft_eq]
  omega

/-- A horizontal breakpoint as a number: cells times dots, clamped (R51). -/
theorem hPosition_toNat (cw : CharWidth) (v : BitVec 12) :
    (hPosition cw v).toNat = min (v.toNat * cellDots cw) 0x7FFF := by
  simp only [hPosition, BitVec.toNat_ofNat]
  omega

/-- The recompute without a hook, as one update. -/
theorem recompute_eq (t : Tag) (s : State) (h : s.par.precalcExt = false) :
    recompute t s =
      { s with
        P := recomputeBlocks t s.reg s.P
        htab := if needTiming t s.P (recomputeBlocks t s.reg s.P) then
          some (recomputeBlocks t s.reg s.P).h else s.htab
        vtab := if needTiming t s.P (recomputeBlocks t s.reg s.P) then
          some (recomputeBlocks t s.reg s.P).v else s.vtab
        S := if s.P.dac.dacMode ≠ (recomputeBlocks t s.reg s.P).dac.dacMode ∨
            s.P.attr.attrMode ≠ (recomputeBlocks t s.reg s.P).attr.attrMode then
          { s.S with dacCount := 0, dacLatch := 0, attrLatch := 0 } else s.S } := by
  simp only [recompute]
  split <;> split <;>
    simp_all [runPrecalcExt, clearLatches, rebuildTimingTables, State.setP, State.setTables, State.setS]

/-- A recompute, hook or not, changes only `P`, the tables and the runtime registers. -/
theorem recompute_frame (t : Tag) (s : State) :
    ∃ p h v r, recompute t s = { s with P := p, htab := h, vtab := v, S := r } := by
  simp only [recompute, runPrecalcExt, clearLatches, rebuildTimingTables, State.setP, State.setTables, State.setS]
  split <;> split <;> split <;> (try split) <;> exact ⟨_, _, _, _, rfl⟩

@[simp] theorem recompute_reg (t : Tag) (s : State) : (recompute t s).reg = s.reg := by
  obtain ⟨p, h, v, r, e⟩ := recompute_frame t s
  simp [e]
@[simp] theorem recompute_par (t : Tag) (s : State) : (recompute t s).par = s.par := by
  obtain ⟨p, h, v, r, e⟩ := recompute_frame t s
  simp [e]
@[simp] theorem recompute_pal (t : Tag) (s : State) : (recompute t s).pal = s.pal := by
  obtain ⟨p, h, v, r, e⟩ := recompute_frame t s
  simp [e]
@[simp] theorem recompute_dacs (t : Tag) (s : State) : (recompute t s).dacs = s.dacs := by
  obtain ⟨p, h, v, r, e⟩ := recompute_frame t s
  simp [e]
@[simp] theorem recompute_vram (t : Tag) (s : State) : (recompute t s).vram = s.vram := by
  obtain ⟨p, h, v, r, e⟩ := recompute_frame t s
  simp [e]
@[simp] theorem recompute_events (t : Tag) (s : State) : (recompute t s).events = s.events := by
  obtain ⟨p, h, v, r, e⟩ := recompute_frame t s
  simp [e]
@[simp] theorem recompute_result (t : Tag) (s : State) : (recompute t s).result = s.result := by
  obtain ⟨p, h, v, r, e⟩ := recompute_frame t s
  simp [e]
@[simp] theorem recompute_pipe (t : Tag) (s : State) : (recompute t s).pipe = s.pipe := by
  obtain ⟨p, h, v, r, e⟩ := recompute_frame t s
  simp [e]
@[simp] theorem recompute_queue (t : Tag) (s : State) : (recompute t s).queue = s.queue := by
  obtain ⟨p, h, v, r, e⟩ := recompute_frame t s
  simp [e]
@[simp] theorem recompute_actor (t : Tag) (s : State) : (recompute t s).actor = s.actor := by
  obtain ⟨p, h, v, r, e⟩ := recompute_frame t s
  simp [e]
@[simp] theorem recompute_waiters (t : Tag) (s : State) : (recompute t s).waiters = s.waiters := by
  obtain ⟨p, h, v, r, e⟩ := recompute_frame t s
  simp [e]
@[simp] theorem recompute_epoch (t : Tag) (s : State) : (recompute t s).epoch = s.epoch := by
  obtain ⟨p, h, v, r, e⟩ := recompute_frame t s
  simp [e]

/-- With the hook plugged in, `P` is its answer on `Derive(REG)` (R185, log 22). -/
theorem recompute_hook (t : Tag) (s : State) (h : s.par.precalcExt = true) :
    (recompute t s).P = Config.precalcExt s.epoch t (derive s.reg) := by
  simp only [recompute, runPrecalcExt, clearLatches, rebuildTimingTables, State.setP, State.setTables, State.setS]
  split_ifs <;> simp_all

/-- A recompute, hook or not, builds both tables from the `P` it leaves, or leaves tables and breakpoints
alone; the tag ALL builds them (R172, R178). -/
theorem recompute_tables (t : Tag) (s : State) :
    ((recompute t s).htab = some (recompute t s).P.h ∧ (recompute t s).vtab = some (recompute t s).P.v) ∨
      (t ≠ .all ∧ (recompute t s).htab = s.htab ∧ (recompute t s).vtab = s.vtab ∧
        (recompute t s).P.h = s.P.h ∧ (recompute t s).P.v = s.P.v) := by
  by_cases h : s.par.precalcExt = true
  · have hp := recompute_hook t s h
    by_cases hn : needTiming t s.P (recomputeBlocks t s.reg s.P) = true
    · left
      simp only [recompute, hn, runPrecalcExt, clearLatches, rebuildTimingTables, State.setP, State.setTables,
        State.setS, if_true]
      split_ifs <;> simp_all
    · have hn' := hn
      simp only [needTiming, Bool.or_eq_true, beq_iff_eq, bne_iff_ne, ne_eq, not_or, not_not] at hn'
      simp only [recompute, hn, runPrecalcExt, clearLatches, rebuildTimingTables, State.setP, State.setTables,
        State.setS]
      split_ifs <;> simp_all
  · rw [recompute_eq t s (by simpa using h)]
    by_cases hn : needTiming t s.P (recomputeBlocks t s.reg s.P) = true
    · simp [hn]
    · have hn' := hn
      simp only [needTiming, Bool.or_eq_true, beq_iff_eq, bne_iff_ne, ne_eq, not_or, not_not] at hn'
      simp [hn, hn'.1.1, ← hn'.1.2, ← hn'.2]

/-! ### Which registers a block reads -/

/-- Two register files that agree on the registers of one section that satisfy a test. -/
def AgreeOn (sec : Byte) (test : Byte → Bool) (m m' : Memory) : Prop :=
  ∀ i, test i = true → regAt m' sec i = regAt m sec i

theorem deriveClocking_congr {m m' : Memory} (h : AgreeOn secSeq (between 0x00 0x00) m m') :
    deriveClocking m' = deriveClocking m := by
  simp only [deriveClocking, h 0x00 (by decide)]

theorem deriveMemMode_congr {m m' : Memory} (h : AgreeOn secSeq (between 0x01 0x05) m m') :
    deriveMemMode m' = deriveMemMode m := by
  have e (i : Byte) (hi : between 0x01 0x05 i = true) := h i hi
  simp only [deriveMemMode, reg16, e 0x01 (by decide), e 0x02 (by decide), e (0x02 + 1) (by decide),
    e 0x04 (by decide), e (0x04 + 1) (by decide)]

theorem deriveH_congr {m m' : Memory} (cw : CharWidth) (h : AgreeOn secCrtc (between 0x00 0x0D) m m') :
    deriveH m' cw = deriveH m cw := by
  have e (i : Byte) (hi : between 0x00 0x0D i = true) := h i hi
  simp only [deriveH, reg12, e 0x00 (by decide), e (0x00 + 1) (by decide), e 0x02 (by decide),
    e (0x02 + 1) (by decide), e 0x04 (by decide), e (0x04 + 1) (by decide), e 0x06 (by decide),
    e (0x06 + 1) (by decide), e 0x08 (by decide), e (0x08 + 1) (by decide), e 0x0A (by decide),
    e (0x0A + 1) (by decide), e 0x0C (by decide), e (0x0C + 1) (by decide)]

theorem deriveV_congr {m m' : Memory} (h : AgreeOn secCrtc (between 0x0E 0x1B) m m') :
    deriveV m' = deriveV m := by
  have e (i : Byte) (hi : between 0x0E 0x1B i = true) := h i hi
  simp only [deriveV, reg12, e 0x0E (by decide), e (0x0E + 1) (by decide), e 0x10 (by decide),
    e (0x10 + 1) (by decide), e 0x12 (by decide), e (0x12 + 1) (by decide), e 0x14 (by decide),
    e (0x14 + 1) (by decide), e 0x16 (by decide), e (0x16 + 1) (by decide), e 0x18 (by decide),
    e (0x18 + 1) (by decide), e 0x1A (by decide), e (0x1A + 1) (by decide)]

theorem deriveGeometry_congr {m m' : Memory} (h : AgreeOn secCrtc (between 0x1C 0x29) m m') :
    deriveGeometry m' = deriveGeometry m := by
  have e (i : Byte) (hi : between 0x1C 0x29 i = true) := h i hi
  simp only [deriveGeometry, reg12, reg16, e 0x1C (by decide), e 0x1D (by decide), e (0x1D + 1) (by decide),
    e 0x1F (by decide), e (0x1F + 1) (by decide), e 0x21 (by decide), e 0x22 (by decide),
    e (0x22 + 1) (by decide), e 0x24 (by decide), e (0x24 + 1) (by decide), e 0x26 (by decide),
    e 0x27 (by decide), e 0x28 (by decide), e 0x29 (by decide)]

theorem deriveGfxMode_congr {m m' : Memory} (h : AgreeOn secGfx (between 0x00 0x00) m m') :
    deriveGfxMode m' = deriveGfxMode m := by
  simp only [deriveGfxMode, h 0x00 (by decide)]

theorem deriveAttrCtl_congr {m m' : Memory} (h : AgreeOn secAttr (between 0x00 0x14) m m') :
    deriveAttrCtl m' = deriveAttrCtl m := by
  have e (i : Byte) (hi : between 0x00 0x14 i = true) := h i hi
  have p (i : Fin 16) : regAt m' secAttr (BitVec.ofNat 8 i.val) = regAt m secAttr (BitVec.ofNat 8 i.val) :=
    e _ (by revert i; decide)
  simp only [deriveAttrCtl, p, e 0x10 (by decide), e 0x11 (by decide), e 0x12 (by decide),
    e 0x13 (by decide), e 0x14 (by decide)]

theorem deriveDacCtl_congr {m m' : Memory} (h : AgreeOn secDac dacDerives m m') :
    deriveDacCtl m' = deriveDacCtl m := by
  simp only [deriveDacCtl, h 0x00 (by decide), h 0x04 (by decide), h 0x05 (by decide)]

/-- After a write to the tagged register, the blocks of its tag bring a current `P` up to date (R173). -/
theorem recomputeBlocks_current {m m' : Memory} {sec idx : Byte}
    (h : ∀ sec' idx', ¬(sec' = sec ∧ idx' = idx) → regAt m' sec' idx' = regAt m sec' idx') :
    recomputeBlocks (.register sec idx) m' (derive m) = derive m' := by
  have agree (sec' : Byte) (test : Byte → Bool)
      (hn : Tag.affects (.register sec idx) sec' test = false) : AgreeOn sec' test m m' := by
    intro i hi
    apply h
    rintro ⟨rfl, rfl⟩
    simp [Tag.affects, hi] at hn
  have eClk : (if Tag.affects (.register sec idx) secSeq (between 0x00 0x00) then deriveClocking m'
      else deriveClocking m) = deriveClocking m' := by
    split
    · rfl
    · rename_i hn
      exact (deriveClocking_congr (agree _ _ (by simpa using hn))).symm
  unfold recomputeBlocks derive
  simp only [eClk]
  congr 1
  · split
    · rfl
    · rename_i hn
      exact (deriveMemMode_congr (agree _ _ (by simpa using hn))).symm
  · split
    · rfl
    · rename_i hn
      simp only [Bool.or_eq_true, not_or, Bool.not_eq_true, bne_eq_false_iff_eq] at hn
      rw [hn.2]
      exact (deriveH_congr _ (agree _ _ hn.1)).symm
  · split
    · rfl
    · rename_i hn
      exact (deriveV_congr (agree _ _ (by simpa using hn))).symm
  · split
    · rfl
    · rename_i hn
      exact (deriveGeometry_congr (agree _ _ (by simpa using hn))).symm
  · split
    · rfl
    · rename_i hn
      exact (deriveGfxMode_congr (agree _ _ (by simpa using hn))).symm
  · split
    · rfl
    · rename_i hn
      exact (deriveAttrCtl_congr (agree _ _ (by simpa using hn))).symm
  · split
    · rfl
    · rename_i hn
      exact (deriveDacCtl_congr (agree _ _ (by simpa using hn))).symm

/-- The blocks of the tag ALL derive every field (R172). -/
theorem recomputeBlocks_all (m : Memory) (p : Precalc) : recomputeBlocks .all m p = derive m := by
  simp [recomputeBlocks, Tag.affects, derive]

/-- On a current `P` no block of any tag changes a field (R174). -/
theorem recomputeBlocks_same (t : Tag) (m : Memory) : recomputeBlocks t m (derive m) = derive m := by
  simp [recomputeBlocks, derive]

/-- Without a hook a recompute of a current `P` is the table rebuild of the tag ALL, or nothing (R174). -/
theorem recompute_current (t : Tag) (s : State) (h : s.par.precalcExt = false) (hp : s.P = derive s.reg) :
    recompute t s = if t = .all then { s with htab := some s.P.h, vtab := some s.P.v } else s := by
  have e : recomputeBlocks t s.reg s.P = s.P := by
    rw [hp]
    exact recomputeBlocks_same t s.reg
  rw [recompute_eq t s h, e]
  by_cases ht : t = .all <;> simp [needTiming, ht]

end Sys2Proof.Machine
end

