-- ==== Sys2Proof/Laws/Registers.lean ====
section
/-! SUPPORT. What the register, palette and plane operations can do. -/

namespace Sys2Proof.Machine

/-! ### Keys -/

/-- Two palette components are kept in one place only if they are the same component. -/
theorem palKey_inj {i j : Byte} {p q : Nat} (hp : p ≤ 3) (hq : q ≤ 3) : palKey i p = palKey j q ↔
    i = j ∧ p = q := by
  unfold palKey
  constructor
  · intro h; constructor
    · apply BitVec.eq_of_toNat_eq; omega
    · omega
  · rintro ⟨rfl, rfl⟩; rfl

/-- Two plane bytes are kept in one place only if they are the same byte. -/
theorem planeKey_inj {p q o o' : Nat} (hp : p ≤ 3) (hq : q ≤ 3) : planeKey p o = planeKey q o' ↔
    p = q ∧ o = o' := by
  unfold planeKey; omega

/-! ### Storing a register -/

/-- A write of a register without side effects of its own (R141). -/
theorem storeRegister_plain (sec idx val : Byte) (s : State) (h : ¬(sec = 5 ∧ 1 ≤ idx.toNat ∧ idx.toNat ≤ 3)) :
    storeRegister sec idx val s =
      s.setReg (s.reg.write (regKey sec idx) (val &&& definedMask s.par.dacBits sec idx)) := by
  unfold storeRegister
  have e : ∀ k : Byte, 1 ≤ k.toNat → k.toNat ≤ 3 → ¬(sec = secDac ∧ idx = k) := by
    rintro k h1 h2 ⟨rfl, rfl⟩; exact h ⟨rfl, h1, h2⟩
  simp [e 1#8 (by decide) (by decide), e 2#8 (by decide) (by decide), e 3#8 (by decide) (by decide)]

/-- Whatever register is written, the register file gets its defined bits (R142, R161 to R163). -/
theorem storeRegister_reg (sec idx val : Byte) (s : State) (hv : validIndex sec idx = true) :
    (storeRegister sec idx val s).reg =
      s.reg.write (regKey sec idx) (val &&& definedMask s.par.dacBits sec idx) := by
  unfold storeRegister dacWriteData
  simp only [State.setReg, State.setPal, State.setDacs]
  have f : ∀ b, definedMask b secDac 1 = 0xFF ∧ definedMask b secDac 2 = 0xFF ∧
      definedMask b secDac 3 = dacMaskOf b := by
    intro b
    cases b <;> decide
  have a1 : ∀ v : Byte, v &&& 0xFF = v := by decide
  split
  · rename_i h; obtain ⟨rfl, rfl⟩ := h; rw [(f _).1, a1]
  · split
    · rename_i h; obtain ⟨rfl, rfl⟩ := h; rw [(f _).2.1, a1]
    · split
      · rename_i h; obtain ⟨rfl, rfl⟩ := h
        rw [(f _).2.2]; split_ifs <;> rfl
      · rfl

/-- A register store touches the register file, the palette and the access counters at most. -/
theorem storeRegister_frame (sec idx val : Byte) (s : State) :
    ∃ reg pal dacs, storeRegister sec idx val s = { s with reg := reg, pal := pal, dacs := dacs } := by
  unfold storeRegister dacWriteData
  simp only [State.setReg, State.setPal, State.setDacs]
  split_ifs <;> exact ⟨_, _, _, rfl⟩

/-- A DAC_DATA write while the counters run over 0, 1, 2 (R163). -/
theorem dacWriteData_eq (v : Byte) (s : State) (h : s.dacs.wsub ≠ 3) : dacWriteData v s = { s with
    reg := s.reg.write (regKey secDac 3) (v &&& dacMaskOf s.par.dacBits)
    pal := s.pal.write (palKey s.dacs.widx s.dacs.wsub.toNat) (v &&& dacMaskOf s.par.dacBits)
    dacs := if s.dacs.wsub = 2 then { s.dacs with wsub := 0, widx := s.dacs.widx + 1 }
      else { s.dacs with wsub := s.dacs.wsub + 1 } } := by
  have h2 : s.dacs.wsub.toNat ≤ 2 := by
    have h3 : s.dacs.wsub.toNat ≠ 3 := fun e => h (BitVec.eq_of_toNat_eq e)
    have := s.dacs.wsub.isLt
    omega
  simp only [dacWriteData, State.setReg, State.setPal, State.setDacs, h2, if_true]
  split <;> rfl

/-! ### Recompute after a store -/

/-- For one register the tables are rebuilt exactly when a breakpoint changed (R172). -/
theorem needTiming_register (sec idx : Byte) (old new : Precalc) :
    needTiming (.register sec idx) old new = true ↔ old.h ≠ new.h ∨ old.v ≠ new.v := by
  simp [needTiming]

/-- A DAC register reaches block B8 only (R172). -/
theorem recomputeBlocks_dac (idx : Byte) (m : Memory) (p : Precalc) :
    recomputeBlocks (.register secDac idx) m p = if dacDerives idx then { p with dac := deriveDacCtl m } else p := by
  simp only [recomputeBlocks, Tag.affects]
  by_cases h : dacDerives idx <;> simp [h, secSeq, secCrtc, secGfx, secAttr, secDac]

/-! ### Reads and writes -/

/-- A DAC register write is always applied: nothing protects it (R42, R141). -/
theorem writeRegister_dac (idx val : Byte) (s : State) (h : validIndex secDac idx = true) :
    writeRegister secDac idx val s =
      (recompute (.register secDac idx) (storeRegister secDac idx val s)).setResult (.applied true) := by
  simp only [writeRegister, writeApplies, h, isProtected]
  rfl

/-- What a register write can touch. -/
theorem writeRegister_frame (sec idx val : Byte) (s : State) :
    ∃ reg pal dacs P h v r res, writeRegister sec idx val s = { s with
      reg := reg, pal := pal, dacs := dacs, P := P, htab := h, vtab := v, S := r, result := res } := by
  unfold writeRegister
  split
  · obtain ⟨reg, pal, dacs, e⟩ := storeRegister_frame sec idx val s
    obtain ⟨p, h, v, r, e'⟩ := recompute_frame (.register sec idx) (storeRegister sec idx val s)
    rw [e', e]; exact ⟨_, _, _, _, _, _, _, _, rfl⟩
  · exact ⟨_, _, _, _, _, _, _, _, rfl⟩

/-- A register read touches the read counters at most. -/
theorem readRegister_frame (sec idx : Byte) (s : State) :
    ∃ dacs res, readRegister sec idx s = { s with dacs := dacs, result := res } := by
  unfold readRegister dacReadData
  simp only [State.setResult, State.setDacs]
  split_ifs <;> exact ⟨_, _, rfl⟩

/-- A plane write touches VRAM at most, and may report itself. -/
theorem planeWrite_frame (p off : Nat) (v : Byte) (s : State) :
    ∃ vram new, planeWrite p off v s = { s with vram := vram, events := new ++ s.events } := by
  unfold planeWrite
  cases effectiveOffset s.par off with
  | none => exact ⟨_, [], rfl⟩
  | some e =>
    dsimp only; split
    · exact ⟨_, [_], rfl⟩
    · exact ⟨_, [], rfl⟩

end Sys2Proof.Machine
end

