-- ==== Sys2Proof/Laws/Schedule.lean ====
section
/-! SUPPORT. What a turn of the schedule can do. -/

namespace Sys2Proof.Machine

/-- An answer with a next state is an answer of the stage it wraps. -/
theorem outcome_eq_next {r : Res State} {t : State} : outcome r = .next t ↔ r = .ok t := by
  cases r <;> simp [outcome]

/-- The first request runs unless it is blocked. -/
theorem pick_head {s : State} {r : Request} {rest : List Request} (h : blocked s r = false) :
    pick s (r :: rest) = some (r, rest) := by
  simp [pick, h]

/-- The first request of a caller that is not waiting is the one whose turn it is. -/
theorem nextTurn_head {s : State} {r : Request} {rest : List Request} (hq : s.queue = r :: rest)
    (hw : s.waiters.contains r.actor = false) : nextTurn s = some (r, rest) := by
  have hb : blocked s r = false := by
    simp only [blocked, hw]
    rfl
  rw [nextTurn, hq, pick_head hb]

/-- No waiting actor is as high as the free one. -/
theorem lt_freeActor (s : State) {a : Nat} (h : a ∈ s.waiters) : a < freeActor s := by
  unfold freeActor
  generalize s.waiters = ws at h
  induction ws with
  | nil => cases h
  | cons b bs ih =>
    simp only [List.foldr_cons]
    rcases List.mem_cons.1 h with rfl | h
    · omega
    · have := ih h
      omega

/-- The free actor is not waiting. -/
theorem freeActor_free (s : State) : s.waiters.contains (freeActor s) = false := by
  rw [Bool.eq_false_iff]
  intro h
  exact Nat.lt_irrefl _ (lt_freeActor s (List.contains_iff_mem.1 h))

/-- A step with a next state changes nothing, or takes a turn and runs at most one operation in it. -/
theorem step_cases {s t : State} (h : step s = .next t) :
    t = s ∨ ∃ a rest, t = s.takeTurn a rest ∨ ∃ i, exec i (s.takeTurn a rest) = .next t := by
  unfold step takeNext at h
  split at h
  · cases h
    exact .inl rfl
  · rename_i r rest _
    right
    split at h
    · exact ⟨_, _, .inr ⟨_, h⟩⟩
    · unfold runTurn at h
      split at h
      · exact ⟨_, _, .inr ⟨_, h⟩⟩
      · cases h
      · cases h
        exact ⟨_, _, .inl rfl⟩

end Sys2Proof.Machine
end

