-- ==== Sys2Proof/Laws/Selectors.lean ====
section
/-! SUPPORT. What each selector field stands for, its reserved codes included. -/

namespace Sys2Proof.Machine

/-- The four values of a two-bit field. -/
theorem twoBit_cases (v : BitVec 2) : v = 0 ∨ v = 1 ∨ v = 2 ∨ v = 3 := by
  revert v
  decide

/-- What `P.addr_mode` stands for. -/
theorem addrModeOf_cases (v : BitVec 2) :
    (v = 0 ∧ addrModeOf v = .ok .byte) ∨ (v = 1 ∧ addrModeOf v = .ok .word) ∨
      (v = 2 ∧ addrModeOf v = .ok .dword) ∨ (v = 3 ∧ addrModeOf v = reserved .addrMode) := by
  rcases twoBit_cases v with rfl | rfl | rfl | rfl <;> simp <;> rfl

/-- A legal `P.addr_mode` is a mode. -/
theorem addrModeOf_legal {v : BitVec 2} (h : v ≠ 3) : ∃ m, addrModeOf v = .ok m := by
  rcases addrModeOf_cases v with h' | h' | h' | h'
  · exact ⟨_, h'.2⟩
  · exact ⟨_, h'.2⟩
  · exact ⟨_, h'.2⟩
  · exact absurd h'.1 h

/-- What `P.shift_mode` stands for. -/
theorem shiftModeOf_cases (v : BitVec 2) :
    (v = 0 ∧ shiftModeOf v = .ok .planar) ∨ (v = 1 ∧ shiftModeOf v = .ok .packed) ∨
      (v = 2 ∧ shiftModeOf v = .ok .shift256) ∨ (v = 3 ∧ shiftModeOf v = reserved .shiftMode) := by
  rcases twoBit_cases v with rfl | rfl | rfl | rfl <;> simp <;> rfl

/-- What `P.attr_mode` stands for. -/
theorem attrModeOf_cases (v : BitVec 2) :
    (v = 0 ∧ attrModeOf v = .ok .attr4) ∨ (v = 1 ∧ attrModeOf v = .ok .attr8) ∨
      (v = 2 ∧ attrModeOf v = .ok .attr16) ∨ (v = 3 ∧ attrModeOf v = reserved .attrMode) := by
  rcases twoBit_cases v with rfl | rfl | rfl | rfl <;> simp <;> rfl

/-- A legal `P.attr_mode` is a mode. -/
theorem attrModeOf_legal {v : BitVec 2} (h : v ≠ 3) : ∃ m, attrModeOf v = .ok m := by
  rcases attrModeOf_cases v with h' | h' | h' | h'
  · exact ⟨_, h'.2⟩
  · exact ⟨_, h'.2⟩
  · exact ⟨_, h'.2⟩
  · exact absurd h'.1 h

/-- A legal `P.pixel_div` divides by `2^P.pixel_div` (R241). -/
theorem divisorOf_legal {v : BitVec 2} (h : v ≠ 3) : divisorOf v = .ok (2 ^ v.toNat) := by
  rcases twoBit_cases v with rfl | rfl | rfl | rfl
  · rfl
  · rfl
  · rfl
  · exact absurd rfl h

/-- What `P.dac_mode` stands for. -/
theorem dacModeOf_cases (v : BitVec 3) :
    (v = 0 ∧ dacModeOf v = .ok .m8) ∨ (v = 1 ∧ dacModeOf v = .ok .m15) ∨ (v = 2 ∧ dacModeOf v = .ok .m16) ∨
      (v = 3 ∧ dacModeOf v = .ok .m24) ∨ (v = 4 ∧ dacModeOf v = .ok .m32) ∨
      (4 < v.toNat ∧ dacModeOf v = reserved .dacMode) := by
  have h : v = 0 ∨ v = 1 ∨ v = 2 ∨ v = 3 ∨ v = 4 ∨ v = 5 ∨ v = 6 ∨ v = 7 := by
    revert v
    decide
  rcases h with rfl | rfl | rfl | rfl | rfl | rfl | rfl | rfl <;> simp <;> rfl

/-- A legal `P.dac_mode` is a depth. -/
theorem dacModeOf_legal {v : BitVec 3} (h : v.toNat ≤ 4) : ∃ m, dacModeOf v = .ok m := by
  rcases dacModeOf_cases v with h' | h' | h' | h' | h' | h'
  · exact ⟨_, h'.2⟩
  · exact ⟨_, h'.2⟩
  · exact ⟨_, h'.2⟩
  · exact ⟨_, h'.2⟩
  · exact ⟨_, h'.2⟩
  · omega

/-- A reserved `P.dac_mode` is refused. -/
theorem dacModeOf_reserved {v : BitVec 3} (h : 4 < v.toNat) : dacModeOf v = reserved .dacMode := by
  rcases dacModeOf_cases v with h' | h' | h' | h' | h' | h'
  · exact absurd h (by simp [h'.1])
  · exact absurd h (by simp [h'.1])
  · exact absurd h (by simp [h'.1])
  · exact absurd h (by simp [h'.1])
  · exact absurd h (by simp [h'.1])
  · exact h'.2

/-- The depth mode that is its own field value, MODE8 (R313). -/
theorem dacModeOf_m8 {v : BitVec 3} : dacModeOf v = .ok .m8 ↔ v = 0 := by
  revert v
  decide

end Sys2Proof.Machine
end

