-- ==== Sys2Proof/Laws/Pipeline.lean ====
section
/-! SUPPORT. What the stages of a reload tick can do: decode, attribute stage, DAC latch. -/

namespace Sys2Proof.Machine

/-- What a stage may change: the fetch registers, the latches and the last colour; a cell address it
leaves is the old one or lies within `MEMADDR_BITS`. -/
def StageStep (s t : State) : Prop :=
  t = { s with S := { s.S with
    charcol := t.S.charcol
    fetchValid := t.S.fetchValid
    fetchGroup := t.S.fetchGroup
    shiftreg := t.S.shiftreg
    cellChar := t.S.cellChar
    cellAttr := t.S.cellAttr
    cellFont := t.S.cellFont
    cellAddr := t.S.cellAddr
    attrLatch := t.S.attrLatch
    dacLatch := t.S.dacLatch
    dacCount := t.S.dacCount
    lastColor := t.S.lastColor
    lastEmit := t.S.lastEmit
    lightpenAddr := t.S.lightpenAddr } } ∧
  (t.S.cellAddr = s.S.cellAddr ∨ t.S.cellAddr < 2 ^ s.par.memaddrBits)

theorem StageStep.refl (s : State) : StageStep s s := ⟨rfl, .inl rfl⟩

theorem StageStep.trans {s t u : State} (h : StageStep s t) (h' : StageStep t u) : StageStep s u := by
  obtain ⟨e, a⟩ := h
  obtain ⟨e', a'⟩ := h'
  constructor
  · rw [e']
    rw [e]
  · rcases a' with a' | a'
    · rw [a']
      exact a
    · right
      rw [e] at a'
      exact a'

theorem StageStep.par {s t : State} (h : StageStep s t) : t.par = s.par := by rw [h.1]
theorem StageStep.P {s t : State} (h : StageStep s t) : t.P = s.P := by rw [h.1]
theorem StageStep.pal {s t : State} (h : StageStep s t) : t.pal = s.pal := by rw [h.1]
theorem StageStep.pipe {s t : State} (h : StageStep s t) : t.pipe = s.pipe := by rw [h.1]
theorem StageStep.events {s t : State} (h : StageStep s t) : t.events = s.events := by rw [h.1]

/-! ### Addresses -/

/-- A reduced address lies within `MEMADDR_BITS`. -/
theorem wrapAddr_lt (par : Params) (n : Nat) : wrapAddr par n < 2 ^ par.memaddrBits :=
  Nat.mod_lt _ (Nat.two_pow_pos _)

/-- With a legal address mode every address is translated (R276). -/
theorem translate_ok {s : State} (h : s.P.crtc.addrMode ≠ 3) (a : Nat) : ∃ off, translate s a = .ok off := by
  obtain ⟨m, hm⟩ := addrModeOf_legal h
  exact ⟨_, by simp only [translate, hm]; rfl⟩

/-- The translation looks at the parameters, `P` and the epoch only. -/
theorem translate_congr {s t : State} (hp : t.par = s.par) (hP : t.P = s.P) (he : t.epoch = s.epoch) (a : Nat) :
    translate t a = translate s a := by
  simp only [translate, translateIn, overrideOffset, hp, hP, he]

/-! ### Decode -/

theorem loadCell_stage (char16 : Bool) (col : BitVec 15) (addr off : Nat) (s : State)
    (h : addr < 2 ^ s.par.memaddrBits) : StageStep s (loadCell char16 col addr off s) := ⟨rfl, .inr h⟩

theorem loadDword_stage (group : BitVec 15) (off : Nat) (s : State) : StageStep s (loadDword group off s) :=
  ⟨rfl, .inl rfl⟩

/-- A cell fetch does nothing where the cell is held, and loads the fetch registers otherwise (R243). -/
theorem fetchCell_cases {char16 : Bool} {col : BitVec 15} {s t : State} (h : fetchCell char16 col s = .ok t) :
    (holds s col = true ∧ t = s) ∨
      ∃ off, holds s col = false ∧ translate s (groupAddr s col) = .ok off ∧
        t = loadCell char16 col (groupAddr s col) off s := by
  unfold fetchCell at h
  split at h
  · rename_i hh
    cases h
    exact .inl ⟨hh, rfl⟩
  · rename_i hh
    cases ht : translate s (groupAddr s col) with
    | error r =>
      rw [ht] at h
      cases h
    | ok off =>
      rw [ht] at h
      cases h
      exact .inr ⟨off, by simpa using hh, rfl, rfl⟩

/-- A group fetch does nothing where the group is held, and loads the shift register otherwise (R249). -/
theorem fetchGroup_cases {group : BitVec 15} {s t : State} (h : fetchGroup group s = .ok t) :
    (holds s group = true ∧ t = s) ∨
      ∃ off, holds s group = false ∧ translate s (groupAddr s group) = .ok off ∧
        t = loadDword group off s := by
  unfold fetchGroup at h
  split at h
  · rename_i hh
    cases h
    exact .inl ⟨hh, rfl⟩
  · rename_i hh
    cases ht : translate s (groupAddr s group) with
    | error r =>
      rw [ht] at h
      cases h
    | ok off =>
      rw [ht] at h
      cases h
      exact .inr ⟨off, by simpa using hh, rfl, rfl⟩

theorem fetchCell_stage {char16 : Bool} {col : BitVec 15} {s t : State} (h : fetchCell char16 col s = .ok t) :
    StageStep s t := by
  obtain ⟨-, rfl⟩ | ⟨off, -, -, rfl⟩ := fetchCell_cases h
  · exact StageStep.refl _
  · exact loadCell_stage _ _ _ _ _ (wrapAddr_lt _ _)

theorem fetchGroup_stage {group : BitVec 15} {s t : State} (h : fetchGroup group s = .ok t) : StageStep s t := by
  obtain ⟨-, rfl⟩ | ⟨off, -, -, rfl⟩ := fetchGroup_cases h
  · exact StageStep.refl _
  · exact loadDword_stage _ _ _

theorem fetchCell_ok (char16 : Bool) (col : BitVec 15) {s : State} (h : s.P.crtc.addrMode ≠ 3) :
    ∃ t, fetchCell char16 col s = .ok t := by
  unfold fetchCell
  split
  · exact ⟨_, rfl⟩
  · obtain ⟨off, ho⟩ := translate_ok h (groupAddr s col)
    exact ⟨_, by rw [ho]; rfl⟩

theorem fetchGroup_ok (group : BitVec 15) {s : State} (h : s.P.crtc.addrMode ≠ 3) :
    ∃ t, fetchGroup group s = .ok t := by
  unfold fetchGroup
  split
  · exact ⟨_, rfl⟩
  · obtain ⟨off, ho⟩ := translate_ok h (groupAddr s group)
    exact ⟨_, by rw [ho]; rfl⟩

theorem cursorHere_ok {s : State} (h : s.P.attr.cursorBlinkSel ≠ 3) : ∃ b, cursorHere s = .ok b := by
  unfold cursorHere
  split
  · exact ⟨_, by simp only [cursorOn, blinkOn, h, if_false]; rfl⟩
  · exact ⟨_, rfl⟩

/-- What a text decode does, step by step (R243). -/
theorem decodeText_cases {cw : CharWidth} {lg c16 : Bool} {px : BitVec 15} {s : State} {r : AttrInfo × State}
    (h : decodeText cw lg c16 px s = .ok r) :
    ∃ mode cursor, attrModeOf s.P.attr.attrMode = .ok mode ∧
      fetchCell c16 (BitVec.ofNat 15 (px.toNat / cellDots cw)) s = .ok r.2 ∧ cursorHere r.2 = .ok cursor ∧
      r.1 = { attr := r.2.S.cellAttr
              font := fontBit r.2 lg (px.toNat % cellDots cw) || cursor
              size := attrSizeOf mode
              phase := px.getLsbD 0 } := by
  unfold decodeText at h
  cases hm : attrModeOf s.P.attr.attrMode with
  | error e =>
    rw [hm] at h
    cases h
  | ok mode =>
    rw [hm] at h
    cases hf : fetchCell c16 (BitVec.ofNat 15 (px.toNat / cellDots cw)) s with
    | error e =>
      simp only [bind, Except.bind, hf] at h
      cases h
    | ok t =>
      cases hc : cursorHere t with
      | error e =>
        simp only [bind, Except.bind, hf, hc] at h
        cases h
      | ok c =>
        simp only [bind, Except.bind, hf, hc] at h
        cases h
        exact ⟨mode, c, rfl, rfl, hc, rfl⟩

/-- What a graphics decode does, step by step (R249). -/
theorem decodeGraphics_cases {shift : ShiftMode} {px : BitVec 15} {s : State} {r : AttrInfo × State}
    (h : decodeGraphics shift px s = .ok r) :
    ∃ mode, attrModeOf s.P.attr.attrMode = .ok mode ∧
      fetchGroup (BitVec.ofNat 15 (px.toNat / unitsPerDword shift mode)) s = .ok r.2 ∧
      r.1 = { attr := graphicsUnit shift mode r.2.S.shiftreg (px.toNat % unitsPerDword shift mode)
              font := false
              size := attrSizeOf mode
              phase := px.getLsbD 0 } := by
  unfold decodeGraphics at h
  cases hm : attrModeOf s.P.attr.attrMode with
  | error e =>
    rw [hm] at h
    cases h
  | ok mode =>
    rw [hm] at h
    cases hf : fetchGroup (BitVec.ofNat 15 (px.toNat / unitsPerDword shift mode)) s with
    | error e =>
      simp only [bind, Except.bind, hf] at h
      cases h
    | ok t =>
      simp only [bind, Except.bind, hf] at h
      cases h
      exact ⟨mode, rfl, hf, rfl⟩

theorem decodeText_ok (cw : CharWidth) (lg c16 : Bool) (px : BitVec 15) {s : State} (ha : s.P.attr.attrMode ≠ 3)
    (hc : s.P.attr.cursorBlinkSel ≠ 3) (ht : s.P.crtc.addrMode ≠ 3) : ∃ r, decodeText cw lg c16 px s = .ok r := by
  obtain ⟨mode, hm⟩ := attrModeOf_legal ha
  obtain ⟨t, hf⟩ := fetchCell_ok c16 (BitVec.ofNat 15 (px.toNat / cellDots cw)) ht
  obtain ⟨c, hb⟩ := cursorHere_ok (s := t) (by rw [(fetchCell_stage hf).P]; exact hc)
  exact ⟨_, by simp only [decodeText, hm, bind, Except.bind, hf, hb]; rfl⟩

theorem decodeGraphics_ok (shift : ShiftMode) (px : BitVec 15) {s : State} (ha : s.P.attr.attrMode ≠ 3)
    (ht : s.P.crtc.addrMode ≠ 3) : ∃ r, decodeGraphics shift px s = .ok r := by
  obtain ⟨mode, hm⟩ := attrModeOf_legal ha
  obtain ⟨t, hf⟩ := fetchGroup_ok (BitVec.ofNat 15 (px.toNat / unitsPerDword shift mode)) ht
  exact ⟨_, by simp only [decodeGraphics, hm, bind, Except.bind, hf]; rfl⟩

theorem decodeText_stage {cw : CharWidth} {lg c16 : Bool} {px : BitVec 15} {s : State} {r : AttrInfo × State}
    (h : decodeText cw lg c16 px s = .ok r) : StageStep s r.2 := by
  obtain ⟨_, _, -, hf, -, -⟩ := decodeText_cases h
  exact fetchCell_stage hf

theorem decodeGraphics_stage {shift : ShiftMode} {px : BitVec 15} {s : State} {r : AttrInfo × State}
    (h : decodeGraphics shift px s = .ok r) : StageStep s r.2 := by
  obtain ⟨_, -, hf, -⟩ := decodeGraphics_cases h
  exact fetchGroup_stage hf

/-- After the unit is counted a decode only stages (R242). -/
theorem decodeUnit_stage {s : State} {r : AttrInfo × State} (h : decodeUnit s = .ok r) :
    StageStep (countUnit s) r.2 := by
  unfold decodeUnit at h
  split at h
  · exact decodeText_stage h
  · cases hs : shiftModeOf s.P.gfx.shiftMode with
    | error e =>
      rw [hs] at h
      cases h
    | ok m =>
      rw [hs] at h
      exact decodeGraphics_stage h

/-! ### The attribute stage and the DAC stage -/

theorem lookup_ok (ai : AttrInfo) {s : State} (h : s.P.attr.textBlinkSel ≠ 3) : ∃ v, lookup ai s = .ok v := by
  unfold lookup
  dsimp only
  split
  · exact ⟨_, by simp only [textBlinkOn, blinkOn, h, if_false]; rfl⟩
  · exact ⟨_, rfl⟩

theorem latchAttr_stage (b : Byte) (s : State) : StageStep s (latchAttr b s) := ⟨rfl, .inl rfl⟩

theorem attr4Of_stage {ai : AttrInfo} {s : State} {r : Option AttrValue × State} (h : attr4Of ai s = .ok r) :
    StageStep s r.2 := by
  unfold attr4Of at h
  cases hl : lookup ai s with
  | error e =>
    rw [hl] at h
    cases h
  | ok v =>
    rw [hl] at h
    cases h
    exact StageStep.refl s

theorem attr8Of_stage {ai : AttrInfo} {s : State} {r : Option AttrValue × State} (h : attr8Of ai s = .ok r) :
    StageStep s r.2 := by
  unfold attr8Of at h
  cases hl : lookup ai s with
  | error e =>
    rw [hl] at h
    cases h
  | ok v =>
    rw [hl] at h
    simp only [bind, Except.bind] at h
    split at h <;> cases h
    · exact StageStep.refl s
    · exact latchAttr_stage _ _

theorem attr16Of_stage (ai : AttrInfo) (s : State) : StageStep s (attr16Of ai s).2 := by
  simp only [attr16Of]
  split
  · exact StageStep.refl s
  · exact latchAttr_stage _ _

/-- The attribute stage only stages (R290). -/
theorem resolve_stage {ai : AttrInfo} {s : State} {r : Option AttrValue × State} (h : resolve ai s = .ok r) :
    StageStep s r.2 := by
  unfold resolve at h
  rcases attrModeOf_cases s.P.attr.attrMode with ⟨-, hm⟩ | ⟨-, hm⟩ | ⟨-, hm⟩ | ⟨-, hm⟩ <;> rw [hm] at h
  · exact attr4Of_stage h
  · exact attr8Of_stage h
  · cases h
    exact attr16Of_stage ai s
  · cases h

theorem resolve_ok (ai : AttrInfo) {s : State} (ha : s.P.attr.attrMode ≠ 3) (hb : s.P.attr.textBlinkSel ≠ 3) :
    ∃ r, resolve ai s = .ok r := by
  obtain ⟨v, hv⟩ := lookup_ok ai hb
  unfold resolve
  rcases attrModeOf_cases s.P.attr.attrMode with ⟨-, hm⟩ | ⟨-, hm⟩ | ⟨-, hm⟩ | ⟨hm', -⟩
  · exact ⟨_, by rw [hm]; simp only [bind, Except.bind, attr4Of, hv]; rfl⟩
  · rw [hm]
    simp only [bind, Except.bind, attr8Of, hv]
    split <;> exact ⟨_, rfl⟩
  · exact ⟨_, by rw [hm]; rfl⟩
  · exact absurd hm' ha

theorem latchByte_stage (n : Nat) (b : Byte) (s : State) : StageStep s (latchByte n b s).2 := by
  simp only [latchByte]
  split <;> exact ⟨rfl, .inl rfl⟩

theorem latchBytes_stage (n : Nat) :
    ∀ (bs : List Byte) (out : Option (BitVec 32)) (s : State), StageStep s (latchBytes n bs out s).2
  | [], _, s => StageStep.refl s
  | b :: bs, _, s => (latchByte_stage n b s).trans (latchBytes_stage n bs _ _)

/-- The DAC latch only stages (R311). -/
theorem dacLatchIn_stage (mode : DacMode) (v : AttrValue) (s : State) : StageStep s (dacLatchIn mode v s).2 := by
  simp only [dacLatchIn]
  split
  · exact ⟨rfl, .inl rfl⟩
  · exact latchBytes_stage _ _ _ _

/-- The DAC stage is the latch and a conversion of what it completes (R211, R311, R312). -/
theorem dacStage_cases {v : AttrValue} {s : State} {r : Option Rgba × State} (h : dacStage v s = .ok r) :
    ∃ mode, dacModeOf s.P.dac.dacMode = .ok mode ∧ r.2 = (dacLatchIn mode v s).2 ∧
      r.1 = (dacLatchIn mode v s).1.map (dacConvertIn r.2 mode) := by
  unfold dacStage at h
  cases hm : dacModeOf s.P.dac.dacMode with
  | error e =>
    rw [hm] at h
    cases h
  | ok mode =>
    rw [hm] at h
    cases h
    exact ⟨mode, rfl, rfl, rfl⟩

theorem dacStage_ok (v : AttrValue) {s : State} (h : s.P.dac.dacMode.toNat ≤ 4) : ∃ r, dacStage v s = .ok r := by
  obtain ⟨m, hm⟩ := dacModeOf_legal h
  exact ⟨_, by simp only [dacStage, hm]; rfl⟩

end Sys2Proof.Machine
end

