-- ==== Sys2Proof/Laws/Tables.lean ====
section
/-! SUPPORT. The timing tables bit by bit. -/

namespace Sys2Proof.Machine

/-- The seven bits of an axis entry. -/
theorem axisWord_getLsbD {w : Nat} (bp : Breakpoints w) (c : BitVec w) (k : Nat) :
    (axisWord bp c).getLsbD k = true ↔
      (k = 0 ∧ c = bp.total) ∨ (k = 1 ∧ c = bp.retraceStart) ∨ (k = 2 ∧ c = bp.retraceEnd) ∨
      (k = 3 ∧ c = bp.blankStart) ∨ (k = 4 ∧ c = bp.blankEnd) ∨
      (k = 5 ∧ c < bp.total ∧ bp.displayStart ≤ c ∧ c < bp.displayEnd) ∨
      (k = 6 ∧ c < bp.total ∧ ¬(bp.displayStart ≤ c ∧ c < bp.displayEnd)) := by
  by_cases hk : k < 7
  · simp only [axisWord, BitVec.getLsbD_append, BitVec.getLsbD_ofBool, BitVec.lt_def, BitVec.le_def]
    interval_cases k <;> (simp; try grind)
  · rw [BitVec.getLsbD_of_ge _ _ (by omega)]
    simp
    omega

/-- A bit of the horizontal table once it is built. -/
theorem htabAt_getLsbD {s : State} {h : Breakpoints 15} (hs : s.htab = some h) (c : BitVec 15) (k : Nat) :
    (htabAt s c).getLsbD k = (axisWord h c).getLsbD k := by
  simp only [htabAt, hs, BitVec.getLsbD_setWidth, Bool.and_eq_right_iff_imp, decide_eq_true_eq]
  intro hk
  by_contra hn
  rw [BitVec.getLsbD_of_ge _ _ (by omega)] at hk
  exact absurd hk (by simp)

/-- A bit of the vertical table once it is built. -/
theorem vtabAt_getLsbD {s : State} {v : Breakpoints 12} (hs : s.vtab = some v) (r : BitVec 12) (k : Nat) :
    (vtabAt s r).getLsbD k = (decide (8 ≤ k) && (axisWord v r).getLsbD (k - 8)) := by
  simp only [vtabAt, hs, BitVec.getLsbD_shiftLeft, BitVec.getLsbD_setWidth]
  by_cases hk : k < 16
  · by_cases h8 : k < 8
    · simp [h8]
    · simp [h8, hk, show 8 ≤ k by omega, show k - 8 < 16 by omega]
  · rw [BitVec.getLsbD_of_ge (axisWord v r) (k - 8) (by omega)]
    simp

/-- A horizontal table that was never built has no bit set. -/
theorem htabAt_none {s : State} (hs : s.htab = none) (c : BitVec 15) : htabAt s c = 0 := by simp [htabAt, hs]

/-- A vertical table that was never built has no bit set. -/
theorem vtabAt_none {s : State} (hs : s.vtab = none) (r : BitVec 12) : vtabAt s r = 0 := by simp [vtabAt, hs]

/-- The horizontal table holds the bits 6..0 only (R112). -/
theorem htabAt_high (s : State) (c : BitVec 15) {k : Nat} (hk : 7 ≤ k) : (htabAt s c).getLsbD k = false := by
  cases hs : s.htab with
  | none => simp [htabAt_none hs]
  | some h => rw [htabAt_getLsbD hs, BitVec.getLsbD_of_ge _ _ hk]

/-- The vertical table holds the bits 14..8 only (R112). -/
theorem vtabAt_low (s : State) (r : BitVec 12) {k : Nat} (hk : k < 8) : (vtabAt s r).getLsbD k = false := by
  cases hs : s.vtab with
  | none => simp [vtabAt_none hs]
  | some v => rw [vtabAt_getLsbD hs]; simp; omega

/-- The horizontal bits of the signal are the horizontal table's (R202). -/
theorem signal_low (s : State) {k : Nat} (hk : k < 8) : (signal s).getLsbD k = (htabAt s s.S.x).getLsbD k := by
  simp [signal, vtabAt_low s _ hk]

/-- The vertical bits of the signal are the vertical table's (R202). -/
theorem signal_high (s : State) {k : Nat} (hk : 8 ≤ k) : (signal s).getLsbD k = (vtabAt s s.S.y).getLsbD k := by
  simp [signal, htabAt_high s _ (show 7 ≤ k by omega)]

/-- The signal of a state depends on the tables and the position only (R202). -/
theorem signal_congr {s t : State} (hh : t.htab = s.htab) (hv : t.vtab = s.vtab) (hx : t.S.x = s.S.x)
    (hy : t.S.y = s.S.y) : signal t = signal s := by
  simp [signal, htabAt, vtabAt, hh, hv, hx, hy]

end Sys2Proof.Machine
end

