-- ==== Sys2Proof/Laws/Sequencer.lean ====
section
/-! SUPPORT. What the render handlers, the total handlers, the signal loop and a tick can do. -/

namespace Sys2Proof.Machine

/-- The selectors that a legal `P` rules out, one by one (R52). -/
theorem SelectorsLegal.fields {p : Precalc} (h : SelectorsLegal p = true) :
    p.crtc.addrMode ≠ 3 ∧ p.clk.pixelDiv ≠ 3 ∧ p.gfx.shiftMode ≠ 3 ∧ p.attr.attrMode ≠ 3 ∧
      p.attr.textBlinkSel ≠ 3 ∧ p.attr.cursorBlinkSel ≠ 3 ∧ p.dac.dacMode.toNat ≤ 4 := by
  simpa [SelectorsLegal, and_assoc] using h

/-! ### Only the runtime registers and the event list -/

/-- A state with other runtime registers and more events. -/
theorem RuntimeOnly.intro (s : State) (r : Runtime) (new : List Event) :
    RuntimeOnly s { s with S := r, events := new ++ s.events } := ⟨rfl, new, rfl⟩

theorem RuntimeOnly.refl (s : State) : RuntimeOnly s s := ⟨rfl, [], rfl⟩

theorem RuntimeOnly.trans {s t u : State} (h : RuntimeOnly s t) (h' : RuntimeOnly t u) : RuntimeOnly s u := by
  obtain ⟨e, n, hn⟩ := h
  obtain ⟨e', n', hn'⟩ := h'
  refine ⟨?_, n' ++ n, by rw [hn', hn, List.append_assoc]⟩
  rw [← e'] at e
  exact e

theorem RuntimeOnly.par {s t : State} (h : RuntimeOnly s t) : t.par = s.par := (congrArg State.par h.1 :)
theorem RuntimeOnly.reg {s t : State} (h : RuntimeOnly s t) : t.reg = s.reg := (congrArg State.reg h.1 :)
theorem RuntimeOnly.P {s t : State} (h : RuntimeOnly s t) : t.P = s.P := (congrArg State.P h.1 :)
theorem RuntimeOnly.htab {s t : State} (h : RuntimeOnly s t) : t.htab = s.htab := (congrArg State.htab h.1 :)
theorem RuntimeOnly.vtab {s t : State} (h : RuntimeOnly s t) : t.vtab = s.vtab := (congrArg State.vtab h.1 :)
theorem RuntimeOnly.pal {s t : State} (h : RuntimeOnly s t) : t.pal = s.pal := (congrArg State.pal h.1 :)
theorem RuntimeOnly.dacs {s t : State} (h : RuntimeOnly s t) : t.dacs = s.dacs := (congrArg State.dacs h.1 :)
theorem RuntimeOnly.vram {s t : State} (h : RuntimeOnly s t) : t.vram = s.vram := (congrArg State.vram h.1 :)
theorem RuntimeOnly.result {s t : State} (h : RuntimeOnly s t) : t.result = s.result := (congrArg State.result h.1 :)
theorem RuntimeOnly.pipe {s t : State} (h : RuntimeOnly s t) : t.pipe = s.pipe := (congrArg State.pipe h.1 :)
theorem RuntimeOnly.queue {s t : State} (h : RuntimeOnly s t) : t.queue = s.queue := (congrArg State.queue h.1 :)
theorem RuntimeOnly.actor {s t : State} (h : RuntimeOnly s t) : t.actor = s.actor := (congrArg State.actor h.1 :)
theorem RuntimeOnly.waiters {s t : State} (h : RuntimeOnly s t) : t.waiters = s.waiters := (congrArg State.waiters h.1 :)
theorem RuntimeOnly.epoch {s t : State} (h : RuntimeOnly s t) : t.epoch = s.epoch := (congrArg State.epoch h.1 :)

/-- A state with other runtime registers only. -/
theorem RuntimeOnly.setS (s : State) (r : Runtime) : RuntimeOnly s (s.setS r) := ⟨rfl, [], rfl⟩

theorem StageStep.runtimeOnly {s t : State} (h : StageStep s t) : RuntimeOnly s t := by
  rw [h.1]
  exact ⟨rfl, [], rfl⟩

/-! ### A reload tick -/

/-- A reload tick counts the unit and then only stages (R211, R242). -/
theorem reload_stage {s t : State} (h : reload s = .ok t) : StageStep (countUnit s) t := by
  unfold reload at h
  cases hd : decodeUnit s with
  | error e =>
    rw [hd] at h
    cases h
  | ok u =>
    simp only [hd, bind, Except.bind] at h
    cases hr : resolve u.1 u.2 with
    | error e =>
      simp only [hr] at h
      cases h
    | ok v =>
      simp only [hr] at h
      have st := (decodeUnit_stage hd).trans (resolve_stage hr)
      split at h
      · cases h
        exact st.trans ⟨rfl, .inl rfl⟩
      · rename_i c _
        cases hc : dacStage c v.2 with
        | error e =>
          simp only [hc] at h
          cases h
        | ok w =>
          simp only [hc] at h
          cases h
          obtain ⟨mode, -, hw, -⟩ := dacStage_cases hc
          refine (st.trans (hw ▸ dacLatchIn_stage mode c v.2)).trans ⟨rfl, .inl rfl⟩

/-- With no reserved selector a reload tick completes (R52, U3). -/
theorem reload_ok {s : State} (h : SelectorsLegal s.P = true) : ∃ t, reload s = .ok t := by
  obtain ⟨ha, -, hs, hm, hb, hc, hd⟩ := SelectorsLegal.fields h
  have hu : ∃ u, decodeUnit s = .ok u := by
    unfold decodeUnit
    split
    · exact decodeText_ok _ _ _ _ hm hc ha
    · rcases shiftModeOf_cases s.P.gfx.shiftMode with ⟨-, e⟩ | ⟨-, e⟩ | ⟨-, e⟩ | ⟨e, -⟩
      · rw [e]
        exact decodeGraphics_ok _ _ hm ha
      · rw [e]
        exact decodeGraphics_ok _ _ hm ha
      · rw [e]
        exact decodeGraphics_ok _ _ hm ha
      · exact absurd e hs
  obtain ⟨u, hu⟩ := hu
  have hP : u.2.P = s.P := (decodeUnit_stage hu).P
  obtain ⟨v, hv⟩ := resolve_ok u.1 (s := u.2) (hP ▸ hm) (hP ▸ hb)
  have hP' : v.2.P = s.P := (resolve_stage hv).P.trans hP
  unfold reload
  simp only [hu, bind, Except.bind, hv]
  cases v.1 with
  | none => exact ⟨_, rfl⟩
  | some c =>
    obtain ⟨w, hw⟩ := dacStage_ok c (s := v.2) (hP' ▸ hd)
    exact ⟨_, by simp only [hw]; rfl⟩

/-! ### The render handlers -/

/-- What one output adds to the event list: the light-pen call, and the pixel unless blanked (R341,
R343). -/
def outputEvents (s : State) (c : Rgba) : List Event :=
  if blanking s then [.pen s.S.lightpenAddr (atPen s)]
  else [.pix s.S.outX s.S.outY c, .pen s.S.lightpenAddr (atPen s)]

/-- FrameOutput as one update (R340). -/
theorem frameOutput_eq (c : Rgba) (s : State) :
    frameOutput c s = { s with
      S := { s.S with outX := s.S.outX + 1 }, events := outputEvents s c ++ s.events } := by
  simp only [frameOutput, outputEvents]
  have e : blanking (s.emit (.pen s.S.lightpenAddr (atPen s))) = blanking s := rfl
  rw [e]
  split <;> rfl

theorem frameOutput_runtimeOnly (c : Rgba) (s : State) : RuntimeOnly s (frameOutput c s) := by
  rw [frameOutput_eq]
  exact RuntimeOnly.intro _ _ _

/-- Showing the last colour is one output of it, or nothing (R211). -/
theorem showLast_cases (s : State) :
    (s.S.lastEmit = none ∧ showLast s = s) ∨ ∃ c, s.S.lastEmit = some c ∧ showLast s = frameOutput c s := by
  unfold showLast
  cases s.S.lastEmit with
  | none => exact .inl ⟨rfl, rfl⟩
  | some c => exact .inr ⟨c, rfl, rfl⟩

/-- The active-display row step by step (R211). -/
theorem activeDisplay_cases {s t : State} (h : activeDisplay s = .ok t) :
    ∃ modulus u, divisorOf s.P.clk.pixelDiv = .ok modulus ∧
      (if reloadNow s then reload s = .ok u else u = s) ∧ t = showLast (stepDivider modulus u) := by
  unfold activeDisplay at h
  cases hm : divisorOf s.P.clk.pixelDiv with
  | error e =>
    rw [hm] at h
    cases h
  | ok m =>
    simp only [hm, bind, Except.bind] at h
    by_cases hr : reloadNow s = true
    · simp only [hr, if_true] at h ⊢
      cases hl : reload s with
      | error e =>
        simp only [hl] at h
        cases h
      | ok u =>
        simp only [hl] at h
        cases h
        exact ⟨m, u, rfl, rfl, rfl⟩
    · simp only [hr] at h ⊢
      cases h
      exact ⟨m, s, rfl, rfl, rfl⟩

theorem activeDisplay_ok {s : State} (h : SelectorsLegal s.P = true) : ∃ t, activeDisplay s = .ok t := by
  obtain ⟨-, hp, -⟩ := SelectorsLegal.fields h
  unfold activeDisplay
  simp only [divisorOf_legal hp, bind, Except.bind]
  by_cases hr : reloadNow s = true
  · obtain ⟨t, ht⟩ := reload_ok h
    exact ⟨_, by simp only [hr, if_true, ht]; rfl⟩
  · exact ⟨_, by simp only [hr]; rfl⟩

/-- What a dispatched row can do (R210). -/
theorem dispatch_cases {ta ra : Bool} {sig : SigWord} {s t : State} (h : dispatch ta ra sig s = .ok t) :
    t = s ∨ (ta = false ∧ ra = false ∧
      ((sig.getLsbD 5 = true ∧ sig.getLsbD 13 = true ∧ activeDisplay s = .ok t) ∨ t = overscan s)) := by
  unfold dispatch at h
  split at h
  · cases h
    exact .inl rfl
  · rename_i hn
    rw [Bool.or_eq_true, not_or, Bool.not_eq_true, Bool.not_eq_true] at hn
    split at h
    · rename_i ha
      rw [Bool.and_eq_true] at ha
      exact .inr ⟨hn.1, hn.2, .inl ⟨ha.1, ha.2, h⟩⟩
    · split at h
      · cases h
        exact .inr ⟨hn.1, hn.2, .inr rfl⟩
      · cases h
        exact .inl rfl

theorem dispatch_ok (ta ra : Bool) (sig : SigWord) {s : State} (h : SelectorsLegal s.P = true) :
    ∃ t, dispatch ta ra sig s = .ok t := by
  unfold dispatch
  split
  · exact ⟨_, rfl⟩
  · split
    · exact activeDisplay_ok h
    · split <;> exact ⟨_, rfl⟩

theorem stepDivider_runtimeOnly (m : Nat) (s : State) : RuntimeOnly s (stepDivider m s) := RuntimeOnly.setS _ _
theorem countUnit_runtimeOnly (s : State) : RuntimeOnly s (countUnit s) := RuntimeOnly.setS _ _
theorem reload_runtimeOnly {s t : State} (h : reload s = .ok t) : RuntimeOnly s t :=
  (countUnit_runtimeOnly s).trans (reload_stage h).runtimeOnly

theorem showLast_runtimeOnly (s : State) : RuntimeOnly s (showLast s) := by
  rcases showLast_cases s with ⟨-, h⟩ | ⟨c, -, h⟩ <;> rw [h]
  · exact RuntimeOnly.refl s
  · exact frameOutput_runtimeOnly c s

theorem activeDisplay_runtimeOnly {s t : State} (h : activeDisplay s = .ok t) : RuntimeOnly s t := by
  obtain ⟨m, u, -, hu, rfl⟩ := activeDisplay_cases h
  refine RuntimeOnly.trans ?_ ((stepDivider_runtimeOnly m u).trans (showLast_runtimeOnly _))
  split at hu
  · exact reload_runtimeOnly hu
  · rw [hu]
    exact RuntimeOnly.refl s

theorem overscan_runtimeOnly (s : State) : RuntimeOnly s (overscan s) := frameOutput_runtimeOnly _ s

theorem dispatch_runtimeOnly {ta ra : Bool} {sig : SigWord} {s t : State} (h : dispatch ta ra sig s = .ok t) :
    RuntimeOnly s t := by
  obtain rfl | ⟨-, -, ⟨-, -, h⟩ | rfl⟩ := dispatch_cases h
  · exact RuntimeOnly.refl _
  · exact activeDisplay_runtimeOnly h
  · exact overscan_runtimeOnly s

/-! ### What rendering leaves alone -/

/-- The runtime registers that no render handler writes: position, latches, counters of rows, panning. -/
def SamePosition (r r' : Runtime) : Prop :=
  r'.x = r.x ∧ r'.y = r.y ∧ r'.hblank = r.hblank ∧ r'.vblank = r.vblank ∧ r'.hretrace = r.hretrace ∧
    r'.vretrace = r.vretrace ∧ r'.vblankFlag = r.vblankFlag ∧ r'.frameCtr = r.frameCtr ∧
    r'.scanline = r.scanline ∧ r'.rowscan = r.rowscan ∧ r'.dblPhase = r.dblPhase ∧ r'.charrow = r.charrow ∧
    r'.memaddr = r.memaddr ∧ r'.pixshift = r.pixshift ∧ r'.bytepan = r.bytepan ∧ r'.latStart = r.latStart ∧
    r'.latPixshift = r.latPixshift ∧ r'.latBytepan = r.latBytepan ∧ r'.outY = r.outY ∧ r'.penX = r.penX ∧
    r'.penY = r.penY

theorem SamePosition.refl (r : Runtime) : SamePosition r r := by simp [SamePosition]

theorem SamePosition.trans {r r' r'' : Runtime} (h : SamePosition r r') (h' : SamePosition r' r'') :
    SamePosition r r'' := by
  unfold SamePosition at *
  simp_all

theorem StageStep.samePosition {s t : State} (h : StageStep s t) : SamePosition s.S t.S := by
  rw [h.1]
  simp [SamePosition]

theorem frameOutput_samePosition (c : Rgba) (s : State) : SamePosition s.S (frameOutput c s).S := by
  rw [frameOutput_eq]
  simp [SamePosition]

theorem activeDisplay_samePosition {s t : State} (h : activeDisplay s = .ok t) : SamePosition s.S t.S := by
  obtain ⟨m, u, -, hu, rfl⟩ := activeDisplay_cases h
  have h1 : SamePosition s.S u.S := by
    split at hu
    · exact SamePosition.trans (by simp [SamePosition, countUnit]) (reload_stage hu).samePosition
    · rw [hu]
      exact SamePosition.refl _
  have h2 : SamePosition u.S (stepDivider m u).S := by simp [SamePosition, stepDivider]
  refine (h1.trans h2).trans ?_
  rcases showLast_cases (stepDivider m u) with ⟨-, e⟩ | ⟨c, -, e⟩ <;> rw [e]
  · exact SamePosition.refl _
  · exact frameOutput_samePosition c _

theorem dispatch_samePosition {ta ra : Bool} {sig : SigWord} {s t : State} (h : dispatch ta ra sig s = .ok t) :
    SamePosition s.S t.S := by
  obtain rfl | ⟨-, -, ⟨-, -, h⟩ | rfl⟩ := dispatch_cases h
  · exact SamePosition.refl _
  · exact activeDisplay_samePosition h
  · exact frameOutput_samePosition _ s

/-- A cell address that a dispatched row leaves is the old one or lies within `MEMADDR_BITS` (R243). -/
theorem dispatch_cellAddr {ta ra : Bool} {sig : SigWord} {s t : State} (h : dispatch ta ra sig s = .ok t) :
    t.S.cellAddr = s.S.cellAddr ∨ t.S.cellAddr < 2 ^ s.par.memaddrBits := by
  obtain rfl | ⟨-, -, ⟨-, -, h⟩ | rfl⟩ := dispatch_cases h
  · exact .inl rfl
  · obtain ⟨m, u, -, hu, rfl⟩ := activeDisplay_cases h
    have e : (showLast (stepDivider m u)).S.cellAddr = u.S.cellAddr := by
      rcases showLast_cases (stepDivider m u) with ⟨-, e⟩ | ⟨c, -, e⟩ <;> rw [e]
      · rfl
      · rw [frameOutput_eq]
        rfl
    rw [e]
    split at hu
    · exact (reload_stage hu).2
    · rw [hu]
      exact .inl rfl
  · left
    simp only [overscan, frameOutput_eq]

/-- What one dispatched row adds to the event list: nothing, one light-pen call, or that and a pixel. -/
theorem dispatch_events {ta ra : Bool} {sig : SigWord} {s t : State} (h : dispatch ta ra sig s = .ok t) :
    t.events = s.events ∨ ∃ u c, t.events = outputEvents u c ++ s.events ∧ SamePosition s.S u.S ∧ u.P = s.P := by
  obtain rfl | ⟨-, -, ⟨-, -, h⟩ | rfl⟩ := dispatch_cases h
  · exact .inl rfl
  · obtain ⟨m, u, -, hu, rfl⟩ := activeDisplay_cases h
    have hev : u.events = s.events ∧ u.P = s.P ∧ SamePosition s.S u.S := by
      split at hu
      · have st := reload_stage hu
        exact ⟨st.events, st.P, SamePosition.trans (by simp [SamePosition, countUnit]) st.samePosition⟩
      · rw [hu]
        exact ⟨rfl, rfl, SamePosition.refl _⟩
    rcases showLast_cases (stepDivider m u) with ⟨-, e⟩ | ⟨c, -, e⟩ <;> rw [e]
    · exact .inl hev.1
    · right
      refine ⟨stepDivider m u, c, ?_, hev.2.2.trans (by simp [SamePosition, stepDivider]), hev.2.1⟩
      rw [frameOutput_eq, ← hev.1]
      rfl
  · right
    refine ⟨s, dacOffOf s (effective s s.P.attr.overscanIndex), ?_, SamePosition.refl _, rfl⟩
    simp only [overscan, frameOutput_eq]

/-! ### The signal -/

theorem onBit_hBlankStart (sig : SigWord) (k : Nat) (s : State) :
    onBit sig k hBlankStart s = s.setS { s.S with hblank := sig.getLsbD k || s.S.hblank } := by
  cases h : sig.getLsbD k <;> simp only [onBit, h] <;> rfl

theorem onBit_hBlankEnd (sig : SigWord) (k : Nat) (s : State) :
    onBit sig k hBlankEnd s = s.setS { s.S with hblank := !sig.getLsbD k && s.S.hblank } := by
  cases h : sig.getLsbD k <;> simp only [onBit, h] <;> rfl

theorem onBit_vBlankStart (sig : SigWord) (k : Nat) (s : State) :
    onBit sig k vBlankStart s = s.setS { s.S with vblank := sig.getLsbD k || s.S.vblank } := by
  cases h : sig.getLsbD k <;> simp only [onBit, h] <;> rfl

theorem onBit_vBlankEnd (sig : SigWord) (k : Nat) (s : State) :
    onBit sig k vBlankEnd s = s.setS { s.S with vblank := !sig.getLsbD k && s.S.vblank } := by
  cases h : sig.getLsbD k <;> simp only [onBit, h] <;> rfl

theorem onBit_hRetraceStart (sig : SigWord) (k : Nat) (s : State) :
    onBit sig k hRetraceStart s = s.setS { s.S with hretrace := sig.getLsbD k || s.S.hretrace } := by
  cases h : sig.getLsbD k <;> simp only [onBit, h] <;> rfl

theorem onBit_hRetraceEnd (sig : SigWord) (k : Nat) (s : State) :
    onBit sig k hRetraceEnd s = s.setS { s.S with hretrace := !sig.getLsbD k && s.S.hretrace } := by
  cases h : sig.getLsbD k <;> simp only [onBit, h] <;> rfl

theorem onBit_vRetraceEnd (sig : SigWord) (k : Nat) (s : State) :
    onBit sig k vRetraceEnd s = s.setS { s.S with vretrace := !sig.getLsbD k && s.S.vretrace } := by
  cases h : sig.getLsbD k <;> simp only [onBit, h] <;> rfl

/-- The start of the vertical retrace as one update: it acts on the 0 to 1 edge only (R204). -/
theorem onBit_vRetraceStart (sig : SigWord) (k : Nat) (s : State) :
    onBit sig k vRetraceStart s = { s with
      S := { s.S with
        vretrace := sig.getLsbD k || s.S.vretrace
        vblankFlag := s.S.vblankFlag || (sig.getLsbD k && !s.S.vretrace)
        frameCtr := if sig.getLsbD k && !s.S.vretrace then s.S.frameCtr + 1 else s.S.frameCtr }
      events := if sig.getLsbD k && !s.S.vretrace then .frame :: s.events else s.events } := by
  cases h : sig.getLsbD k
  · simp [onBit, h]
  · cases hv : s.S.vretrace
    · simp [onBit, h, hv, vRetraceStart, State.setS, State.emit]
    · simp [onBit, h, hv, vRetraceStart]
      simp [← hv]

/-- One evaluation of the signal as one update: the four latches, and the frame-boundary event on the 0 to 1
edge of the vertical retrace latch (R203, R204). -/
theorem evaluate_eq (s : State) :
    evaluate s = { s with
      S := { s.S with
        hblank := !(signal s).getLsbD 4 && ((signal s).getLsbD 3 || s.S.hblank)
        vblank := !(signal s).getLsbD 12 && ((signal s).getLsbD 11 || s.S.vblank)
        hretrace := !(signal s).getLsbD 2 && ((signal s).getLsbD 1 || s.S.hretrace)
        vretrace := !(signal s).getLsbD 10 && ((signal s).getLsbD 9 || s.S.vretrace)
        vblankFlag := s.S.vblankFlag || ((signal s).getLsbD 9 && !s.S.vretrace)
        frameCtr := if (signal s).getLsbD 9 && !s.S.vretrace then s.S.frameCtr + 1 else s.S.frameCtr }
      events := if (signal s).getLsbD 9 && !s.S.vretrace then .frame :: s.events else s.events } := by
  simp only [evaluate, resolveRetrace, resolveBlank, onBit_hBlankStart, onBit_hBlankEnd, onBit_vBlankStart,
    onBit_vBlankEnd, onBit_hRetraceStart, onBit_hRetraceEnd, onBit_vRetraceStart, onBit_vRetraceEnd, State.setS]
  rfl

/-- One evaluation changes the four latches, the vertical-blank flag, the frame counter and the event list
only, and adds at most the frame-boundary event. -/
theorem evaluate_cases (s : State) :
    (evaluate s = { s with S := { s.S with
        hblank := (evaluate s).S.hblank
        vblank := (evaluate s).S.vblank
        hretrace := (evaluate s).S.hretrace
        vretrace := (evaluate s).S.vretrace } }) ∨
      evaluate s = { s with
        S := { s.S with
          hblank := (evaluate s).S.hblank
          vblank := (evaluate s).S.vblank
          hretrace := (evaluate s).S.hretrace
          vretrace := (evaluate s).S.vretrace
          vblankFlag := true
          frameCtr := s.S.frameCtr + 1 }
        events := .frame :: s.events } := by
  cases h : (signal s).getLsbD 9 && !s.S.vretrace
  · left
    rw [evaluate_eq, h]
    simp
  · right
    rw [evaluate_eq, h]
    simp

theorem evaluate_runtimeOnly (s : State) : RuntimeOnly s (evaluate s) := by
  rcases evaluate_cases s with h | h <;> rw [h]
  · exact RuntimeOnly.intro s _ []
  · exact RuntimeOnly.intro s _ [.frame]

/-! ### The total handlers -/

theorem startScanline_runtimeOnly (s : State) : RuntimeOnly s (startScanline s) := RuntimeOnly.setS _ _

theorem nextRowScan_runtimeOnly (s : State) : RuntimeOnly s (nextRowScan s) := by
  unfold nextRowScan
  split <;> exact RuntimeOnly.setS _ _

theorem topWindow_runtimeOnly (s : State) : RuntimeOnly s (topWindow s) := by
  unfold topWindow
  dsimp only
  split
  · exact (RuntimeOnly.setS _ _).trans (RuntimeOnly.setS _ _)
  · exact RuntimeOnly.setS _ _

theorem leaveActiveRow_runtimeOnly (s : State) : RuntimeOnly s (leaveActiveRow s) := by
  unfold leaveActiveRow
  dsimp only
  have h1 := RuntimeOnly.setS s { s.S with scanline := s.S.scanline + 1 }
  generalize s.setS { s.S with scanline := s.S.scanline + 1 } = u at h1
  have h2 : RuntimeOnly u (if (u.P.crtc.scandouble && !u.S.dblPhase) = true then
      u.setS { u.S with dblPhase := true } else nextRowScan u) := by
    split
    · exact RuntimeOnly.setS _ _
    · exact nextRowScan_runtimeOnly u
  revert h2
  generalize (if (u.P.crtc.scandouble && !u.S.dblPhase) = true then
      u.setS { u.S with dblPhase := true } else nextRowScan u) = w
  intro h2
  refine h1.trans (h2.trans ?_)
  split
  · exact topWindow_runtimeOnly _
  · exact RuntimeOnly.refl _

theorem hTotal_runtimeOnly (s : State) : RuntimeOnly s (hTotal s) := by
  unfold hTotal
  split
  · exact (startScanline_runtimeOnly s).trans (leaveActiveRow_runtimeOnly _)
  · exact startScanline_runtimeOnly s

theorem vTotal_runtimeOnly (s : State) : RuntimeOnly s (vTotal s) := RuntimeOnly.setS _ _

theorem onBit_runtimeOnly {op : State → State} (h : ∀ s, RuntimeOnly s (op s)) (sig : SigWord) (k : Nat)
    (s : State) : RuntimeOnly s (onBit sig k op s) := by
  unfold onBit
  split
  · exact h s
  · exact RuntimeOnly.refl s

theorem runTotals_runtimeOnly (sig : SigWord) (s : State) : RuntimeOnly s (runTotals sig s) :=
  (onBit_runtimeOnly hTotal_runtimeOnly _ _ s).trans (onBit_runtimeOnly vTotal_runtimeOnly _ _ _)

theorem emit_runtimeOnly (e : Event) (s : State) : RuntimeOnly s (s.emit e) := RuntimeOnly.intro s s.S [e]

/-! ### The signal loop and the tick -/

theorem signalLoop_runtimeOnly : ∀ (k : Nat) (s : State), RuntimeOnly s (signalLoop k s).2.2
  | 0, s => by
    unfold signalLoop
    split
    · exact (evaluate_runtimeOnly s).trans (emit_runtimeOnly _ _)
    · exact evaluate_runtimeOnly s
  | k + 1, s => by
    unfold signalLoop
    split
    · exact ((evaluate_runtimeOnly s).trans (runTotals_runtimeOnly _ _)).trans (signalLoop_runtimeOnly k _)
    · exact evaluate_runtimeOnly s

/-- A tick step by step (R201). -/
theorem tick_cases {s t : State} (h : tick s = .ok t) :
    ∃ u, dispatch (signalLoop Config.retryBound s).2.1 (retracing (signalLoop Config.retryBound s).2.2)
        (signalLoop Config.retryBound s).1 (signalLoop Config.retryBound s).2.2 = .ok u ∧ t = advanceColumn u := by
  unfold tick at h
  dsimp only at h
  cases hd : dispatch (signalLoop Config.retryBound s).2.1 (retracing (signalLoop Config.retryBound s).2.2)
      (signalLoop Config.retryBound s).1 (signalLoop Config.retryBound s).2.2 with
  | error e =>
    rw [hd] at h
    cases h
  | ok u =>
    rw [hd] at h
    cases h
    exact ⟨u, rfl, rfl⟩

theorem tick_ok {s : State} (h : SelectorsLegal s.P = true) : ∃ t, tick s = .ok t := by
  have hP := (signalLoop_runtimeOnly Config.retryBound s).P
  obtain ⟨u, hu⟩ := dispatch_ok (signalLoop Config.retryBound s).2.1
    (retracing (signalLoop Config.retryBound s).2.2) (signalLoop Config.retryBound s).1
    (s := (signalLoop Config.retryBound s).2.2) (by rw [hP]; exact h)
  exact ⟨advanceColumn u, by simp only [tick, hu]; rfl⟩

theorem tick_runtimeOnly {s t : State} (h : tick s = .ok t) : RuntimeOnly s t := by
  obtain ⟨u, hu, rfl⟩ := tick_cases h
  exact (signalLoop_runtimeOnly _ s).trans ((dispatch_runtimeOnly hu).trans (RuntimeOnly.setS _ _))

/-- A run of ticks is the first tick and the rest (R147). -/
theorem ticks_succ {n : Nat} {s u : State} :
    ticks (n + 1) s = .ok u ↔ ∃ t, tick s = .ok t ∧ ticks n t = .ok u := by
  rw [ticks]
  cases ht : tick s with
  | error e => simp [bind, Except.bind]
  | ok t => simp [bind, Except.bind]

theorem ticks_add (n m : Nat) (s : State) : ticks (n + m) s = (ticks n s).bind (ticks m) := by
  induction n generalizing s with
  | zero => simp [ticks, Except.bind]
  | succ n ih =>
    rw [Nat.succ_add]
    simp only [ticks]
    cases tick s with
    | error e => rfl
    | ok t => exact ih t

theorem ticks_ok (n : Nat) {s : State} (h : SelectorsLegal s.P = true) : ∃ t, ticks n s = .ok t := by
  induction n generalizing s with
  | zero => exact ⟨s, rfl⟩
  | succ n ih =>
    obtain ⟨t, ht⟩ := tick_ok h
    obtain ⟨u, hu⟩ := ih (s := t) (by rw [(tick_runtimeOnly ht).P]; exact h)
    exact ⟨u, ticks_succ.2 ⟨t, ht, hu⟩⟩

theorem ticks_runtimeOnly (n : Nat) {s t : State} (h : ticks n s = .ok t) : RuntimeOnly s t := by
  induction n generalizing s with
  | zero =>
    cases h
    exact RuntimeOnly.refl _
  | succ n ih =>
    obtain ⟨u, hu, h⟩ := ticks_succ.1 h
    exact (tick_runtimeOnly hu).trans (ih h)

end Sys2Proof.Machine
end

