-- ==== Sys2Proof/Laws/Totals.lean ====
section
/-! SUPPORT. What the total handlers and the signal loop leave in the runtime registers. -/

namespace Sys2Proof.Machine

/-- What leaving an active-display row may change; a memory address it leaves is the old one or lies within
`MEMADDR_BITS`. -/
def RowStep (s t : State) : Prop :=
  t = { s with S := { s.S with
    scanline := t.S.scanline
    dblPhase := t.S.dblPhase
    rowscan := t.S.rowscan
    charrow := t.S.charrow
    memaddr := t.S.memaddr
    pixshift := t.S.pixshift
    bytepan := t.S.bytepan } } ∧
  (t.S.memaddr = s.S.memaddr ∨ t.S.memaddr < 2 ^ s.par.memaddrBits)

theorem RowStep.refl (s : State) : RowStep s s := ⟨rfl, .inl rfl⟩

theorem RowStep.trans {s t u : State} (h : RowStep s t) (h' : RowStep t u) : RowStep s u := by
  obtain ⟨e, a⟩ := h
  obtain ⟨e', a'⟩ := h'
  constructor
  · rw [e']
    rw [e]
  · rcases a' with a' | a'
    · rw [a']
      exact a
    · right
      rw [e] at a'
      exact a'

theorem nextRowScan_row (s : State) : RowStep s (nextRowScan s) := by
  unfold nextRowScan
  split
  · exact ⟨rfl, .inr (wrapAddr_lt _ _)⟩
  · exact ⟨rfl, .inl rfl⟩

theorem topWindow_row (s : State) : RowStep s (topWindow s) := by
  unfold topWindow
  dsimp only
  split <;> exact ⟨rfl, .inr (Nat.two_pow_pos _)⟩

theorem leaveActiveRow_row (s : State) : RowStep s (leaveActiveRow s) := by
  unfold leaveActiveRow
  dsimp only
  have h1 : RowStep s (s.setS { s.S with scanline := s.S.scanline + 1 }) := ⟨rfl, .inl rfl⟩
  generalize s.setS { s.S with scanline := s.S.scanline + 1 } = u at h1
  have h2 : RowStep u (if (u.P.crtc.scandouble && !u.S.dblPhase) = true then
      u.setS { u.S with dblPhase := true } else nextRowScan u) := by
    split
    · exact ⟨rfl, .inl rfl⟩
    · exact nextRowScan_row u
  revert h2
  generalize (if (u.P.crtc.scandouble && !u.S.dblPhase) = true then
      u.setS { u.S with dblPhase := true } else nextRowScan u) = w
  intro h2
  refine h1.trans (h2.trans ?_)
  split
  · exact topWindow_row _
  · exact RowStep.refl _

/-- The horizontal-total handler is the scanline reset and at most a row step (R205). -/
theorem hTotal_row (s : State) : RowStep (startScanline s) (hTotal s) := by
  unfold hTotal
  split
  · exact leaveActiveRow_row _
  · exact RowStep.refl _

@[simp] theorem hTotal_x (s : State) : (hTotal s).S.x = 0 := by rw [(hTotal_row s).1]; rfl
@[simp] theorem hTotal_y (s : State) : (hTotal s).S.y = s.S.y + 1 := by rw [(hTotal_row s).1]; rfl
@[simp] theorem hTotal_outY (s : State) : (hTotal s).S.outY = s.S.outY + 1 := by rw [(hTotal_row s).1]; rfl
@[simp] theorem hTotal_hblank (s : State) : (hTotal s).S.hblank = s.S.hblank := by rw [(hTotal_row s).1]; rfl
@[simp] theorem hTotal_latStart (s : State) : (hTotal s).S.latStart = s.S.latStart := by
  rw [(hTotal_row s).1]; rfl
@[simp] theorem hTotal_cellAddr (s : State) : (hTotal s).S.cellAddr = s.S.cellAddr := by
  rw [(hTotal_row s).1]; rfl
@[simp] theorem hTotal_events (s : State) : (hTotal s).events = s.events := by rw [(hTotal_row s).1]; rfl
@[simp] theorem vTotal_x (s : State) : (vTotal s).S.x = s.S.x := rfl
@[simp] theorem vTotal_y (s : State) : (vTotal s).S.y = 0 := rfl
@[simp] theorem vTotal_outY (s : State) : (vTotal s).S.outY = 0 := rfl
@[simp] theorem vTotal_hblank (s : State) : (vTotal s).S.hblank = s.S.hblank := rfl
@[simp] theorem vTotal_cellAddr (s : State) : (vTotal s).S.cellAddr = s.S.cellAddr := rfl
@[simp] theorem vTotal_events (s : State) : (vTotal s).events = s.events := rfl

/-- A memory address the horizontal-total handler leaves is the old one or lies within `MEMADDR_BITS`. -/
theorem hTotal_memaddr (s : State) :
    (hTotal s).S.memaddr = s.S.memaddr ∨ (hTotal s).S.memaddr < 2 ^ s.par.memaddrBits := (hTotal_row s).2

/-- The four ways the total handlers are selected (R201, R215). -/
theorem runTotals_cases (sig : SigWord) (s : State) :
    (sig.getLsbD 0 = false ∧ sig.getLsbD 8 = false ∧ runTotals sig s = s) ∨
      (sig.getLsbD 0 = true ∧ sig.getLsbD 8 = false ∧ runTotals sig s = hTotal s) ∨
      (sig.getLsbD 0 = false ∧ sig.getLsbD 8 = true ∧ runTotals sig s = vTotal s) ∨
      (sig.getLsbD 0 = true ∧ sig.getLsbD 8 = true ∧ runTotals sig s = vTotal (hTotal s)) := by
  cases h0 : sig.getLsbD 0 <;> cases h8 : sig.getLsbD 8 <;>
    simp [runTotals, onBit, sigHTotal, sigVTotal, h0, h8, -BitVec.getLsbD_eq_getElem]

@[simp] theorem runTotals_events (sig : SigWord) (s : State) : (runTotals sig s).events = s.events := by
  rcases runTotals_cases sig s with ⟨-, -, e⟩ | ⟨-, -, e⟩ | ⟨-, -, e⟩ | ⟨-, -, e⟩ <;> rw [e] <;> simp

@[simp] theorem runTotals_hblank (sig : SigWord) (s : State) : (runTotals sig s).S.hblank = s.S.hblank := by
  rcases runTotals_cases sig s with ⟨-, -, e⟩ | ⟨-, -, e⟩ | ⟨-, -, e⟩ | ⟨-, -, e⟩ <;> rw [e] <;> simp

@[simp] theorem evaluate_x (s : State) : (evaluate s).S.x = s.S.x := by rw [evaluate_eq]
@[simp] theorem evaluate_y (s : State) : (evaluate s).S.y = s.S.y := by rw [evaluate_eq]
@[simp] theorem evaluate_htab (s : State) : (evaluate s).htab = s.htab := (evaluate_runtimeOnly s).htab
@[simp] theorem evaluate_vtab (s : State) : (evaluate s).vtab = s.vtab := (evaluate_runtimeOnly s).vtab
@[simp] theorem runTotals_htab (sig : SigWord) (s : State) : (runTotals sig s).htab = s.htab :=
  (runTotals_runtimeOnly sig s).htab
@[simp] theorem runTotals_vtab (sig : SigWord) (s : State) : (runTotals sig s).vtab = s.vtab :=
  (runTotals_runtimeOnly sig s).vtab

/-- One evaluation of the signal in terms of the table entries of the position (R202, R203, R204). -/
theorem evaluate_eq_resolved (s : State) : evaluate s = resolved s := by
  rw [evaluate_eq]
  simp only [resolved, signal_low s (show 1 < 8 by decide), signal_low s (show 2 < 8 by decide),
    signal_low s (show 3 < 8 by decide), signal_low s (show 4 < 8 by decide),
    signal_high s (show 8 ≤ 9 by decide), signal_high s (show 8 ≤ 10 by decide),
    signal_high s (show 8 ≤ 11 by decide), signal_high s (show 8 ≤ 12 by decide)]
  have latch (e b l : Bool) : (!e && (b || l)) = if e then false else if b then true else l := by
    cases e <;> cases b <;> rfl
  have flag (f b : Bool) : (f || b) = if b then true else f := by cases f <;> cases b <;> rfl
  simp only [latch]
  simp only [flag]

/-- The total bits of a position are those of its signal word (R201). -/
theorem totalBits_signal (s : State) : totalBits (signal s) = totalHere s := by
  simp only [totalBits, totalHere, sigHTotal, sigVTotal, signal_low s (show 0 < 8 by decide),
    signal_high s (show 8 ≤ 8 by decide)]

/-- `TotalsRun` is one evaluation and the total handlers its word selects (R201, R215). -/
theorem totalsRun_iff {s u : State} : TotalsRun s u ↔ u = runTotals (signal s) (evaluate s) := by
  have e0 : (signal s).getLsbD 0 = (htabAt s s.S.x).getLsbD 0 := signal_low s (by decide)
  have e8 : (signal s).getLsbD 8 = (vtabAt s s.S.y).getLsbD 8 := signal_high s (by decide)
  simp only [TotalsRun, runTotals, onBit, sigHTotal, sigVTotal, e0, e8, evaluate_eq_resolved]
  cases (htabAt s s.S.x).getLsbD 0 <;> cases (vtabAt s s.S.y).getLsbD 8 <;>
    simp [exec, execHtotal, execVtotal, eq_comm]

/-- A property that evaluation, the total handlers and the diagnostic keep holds after the loop. -/
theorem signalLoop_keeps {p : State → Prop} (he : ∀ s, p s → p (evaluate s))
    (ht : ∀ sig s, p s → p (runTotals sig s)) (hd : ∀ s, p s → p (s.emit .diagRetry)) :
    ∀ (k : Nat) (s : State), p s → p (signalLoop k s).2.2
  | 0, s, h => by
    unfold signalLoop
    split
    · exact hd _ (he s h)
    · exact he s h
  | k + 1, s, h => by
    unfold signalLoop
    split
    · exact signalLoop_keeps he ht hd k _ (ht _ _ (he s h))
    · exact he s h

/-- The loop with no total bit: one evaluation (R201). -/
theorem signalLoop_still (k : Nat) (s : State) (h : totalBits (signal s) = false) :
    signalLoop k s = (signal s, false, evaluate s) := by
  cases k <;> simp [signalLoop, h]

/-- The loop with a total bit and retries left (R201). -/
theorem signalLoop_retry (k : Nat) (s : State) (h : totalBits (signal s) = true) :
    signalLoop (k + 1) s = signalLoop k (runTotals (signal s) (evaluate s)) := by
  simp [signalLoop, h]

/-- The events of one evaluation: at most the frame boundary. -/
theorem evaluate_events (s : State) :
    ∃ j ≤ 1, (evaluate s).events = List.replicate j .frame ++ s.events := by
  rcases evaluate_cases s with h | h <;> rw [h]
  · exact ⟨0, by omega, rfl⟩
  · exact ⟨1, by omega, rfl⟩

/-- The events of the loop: at most one frame boundary for each evaluation, then the diagnostic exactly if
the bound was exceeded (R206). -/
theorem signalLoop_events : ∀ (k : Nat) (s : State),
    ∃ j ≤ k + 1, (signalLoop k s).2.2.events =
      (if (signalLoop k s).2.1 then [.diagRetry] else []) ++ (List.replicate j .frame ++ s.events)
  | 0, s => by
    obtain ⟨j, hj, e⟩ := evaluate_events s
    refine ⟨j, hj, ?_⟩
    unfold signalLoop
    split <;> simp [e]
  | k + 1, s => by
    obtain ⟨j, hj, e⟩ := evaluate_events s
    by_cases h : totalBits (signal s) = true
    · rw [signalLoop_retry k s h]
      obtain ⟨i, hi, e'⟩ := signalLoop_events k (runTotals (signal s) (evaluate s))
      refine ⟨i + j, by omega, ?_⟩
      rw [e', runTotals_events, e, List.replicate_add, List.append_assoc]
    · rw [signalLoop_still _ s (by simpa using h)]
      exact ⟨j, by omega, by simp [e]⟩

end Sys2Proof.Machine
end

