-- ==== Sys2Proof/Laws/Frames.lean ====
section
/-! SUPPORT. The operations that write neither registers, palette, VRAM nor the callers' state. -/

namespace Sys2Proof.Machine

/-- Only runtime registers, result, stage registers, and added events. -/
def Light (s t : State) : Prop :=
  t = { s with S := t.S, result := t.result, pipe := t.pipe, events := t.events } ∧ ∃ new, t.events = new ++ s.events

theorem Light.refl (s : State) : Light s s := ⟨rfl, [], rfl⟩
theorem Light.ro {s t : State} (h : RuntimeOnly s t) : Light s t := by
  obtain ⟨e, n, hn⟩ := h
  refine ⟨?_, n, hn⟩
  have : s = { t with S := s.S, events := s.events } := e.symm
  rw [this]
theorem Light.trans {s t u : State} (h : Light s t) (h' : Light t u) : Light s u := by
  obtain ⟨e, n, hn⟩ := h
  obtain ⟨e', n', hn'⟩ := h'
  refine ⟨?_, n' ++ n, by rw [hn', hn, List.append_assoc]⟩
  rw [e']; rw [e]
theorem Light.setResult (s : State) (r) : Light s (s.setResult r) := ⟨rfl, [], rfl⟩
theorem Light.setPipe (s : State) (r) : Light s (s.setPipe r) := ⟨rfl, [], rfl⟩
theorem Light.setS (s : State) (r) : Light s (s.setS r) := ⟨rfl, [], rfl⟩

/-- A stage that answers went on with the answer of the stage before. -/
theorem bind_ok {α β : Type} {x : Res α} {f : α → Res β} {b : β} (h : (x >>= f) = .ok b) :
    ∃ a, x = .ok a ∧ f a = .ok b := by
  cases x with
  | error => cases h
  | ok a => exact ⟨a, rfl, h⟩

/-- The vertical retrace start is light. -/
theorem vRetraceStart_runtimeOnly (s : State) : RuntimeOnly s (vRetraceStart s) := by
  unfold vRetraceStart
  split
  · exact RuntimeOnly.refl s
  · exact RuntimeOnly.intro s _ [_]

/-- Operations that may write more than that. -/
def heavy : Instr → Bool
  | .vwrite _ _ _ | .waitvbl => true
  | i => writesPrecalc i || stepsPalette i

/-- Every other operation is light. -/
theorem light_exec (i : Instr) (hi : heavy i = false) (s t : State) (h : exec i s = .next t) : Light s t := by
  have res : ∀ {r : Res State}, outcome r = .next t → r = .ok t := fun h => outcome_eq_next.1 h
  have dec : ∀ {r : Res (AttrInfo × State)},
      (∀ u, r = .ok u → StageStep (countUnit s) u.2) → outcome (do
      let u ← r
      pure (putUnit u)) = .next t → Light s t := by
    intro r hr h
    obtain ⟨u, hu, h⟩ := bind_ok (res h)
    cases h
    exact ((Light.setS s _).trans (Light.ro (hr u hu).runtimeOnly)).trans (Light.setPipe _ _)
  have un : ∀ {f : AttrInfo → State → Res (Option AttrValue × State)},
      (∀ ai r, f ai s = .ok r → StageStep s r.2) → onUnit f s = .next t → Light s t := by
    intro f hf h
    unfold onUnit at h
    split at h
    · cases h; exact Light.setPipe _ _
    · obtain ⟨r, hr, h⟩ := bind_ok (res h)
      cases h
      exact (Light.ro (hf _ _ hr).runtimeOnly).trans (Light.setPipe _ _)
  have dep : ∀ m, Light s (runDepth m s) := by
    intro m
    unfold runDepth
    cases s.pipe.val with
    | none => exact Light.setPipe _ _
    | some v => exact (Light.ro (dacLatchIn_stage m v s).runtimeOnly).trans (Light.setPipe _ _)
  have lumr : ∀ f, Light s (returnLum f s) := by
    intro f; unfold returnLum; split
    · exact Light.refl _
    · exact Light.setResult _ _
  cases i <;> first | cases hi | skip
  case advance n => exact Light.ro (ticks_runtimeOnly _ (res h))
  case tick => exact Light.ro (tick_runtimeOnly (res h))
  case vread => cases h; exact Light.setResult _ _
  case padec => obtain ⟨r, -, h⟩ := bind_ok (res h); cases h; exact Light.setResult _ _
  case paOddevenR => obtain ⟨r, -, h⟩ := bind_ok (res h); cases h; exact Light.setResult _ _
  case paOddevenW => obtain ⟨r, -, h⟩ := bind_ok (res h); cases h; exact Light.setResult _ _
  case decText => exact dec (fun u hu => decodeText_stage hu) h
  case decPlanar => exact dec (fun u hu => decodeGraphics_stage hu) h
  case decPacked => exact dec (fun u hu => decodeGraphics_stage hu) h
  case decShift256 => exact dec (fun u hu => decodeGraphics_stage hu) h
  case attr4 => exact un (fun ai r hr => attr4Of_stage hr) h
  case attr8 => exact un (fun ai r hr => attr8Of_stage hr) h
  case attr16 =>
    exact un (f := fun ai s => .ok (attr16Of ai s)) (fun ai r hr => by cases hr; exact attr16Of_stage ai s) h
  case dacSwap => obtain ⟨r, -, h⟩ := bind_ok (res h); cases h; exact Light.setPipe _ _
  case outPixel =>
    simp only [exec, execOutPixel] at h
    cases h; split
    · exact Light.refl _
    · exact Light.ro (frameOutput_runtimeOnly _ _)
  case rActive => exact Light.ro (activeDisplay_runtimeOnly (res h))
  case rdreg sec idx => 
    have hi : (sec == 5 && idx == 3) = false := hi
    have h : readRegister sec idx s = t := by simpa [exec, execRdreg] using h
    subst h
    unfold readRegister
    split
    · split
      · exact Light.setResult _ _
      · split
        · exact Light.setResult _ _
        · split
          · rename_i q; exfalso; rw [q.1, q.2] at hi; exact absurd hi (by decide)
          · exact Light.setResult _ _
    · exact Light.setResult _ _
  all_goals (cases h; first 
    | exact dep _ 
    | exact lumr _ 
    | exact Light.refl s
    | exact Light.ro (hTotal_runtimeOnly s)
    | exact Light.ro (vTotal_runtimeOnly s)
    | exact Light.ro (overscan_runtimeOnly s)
    | exact Light.ro (vRetraceStart_runtimeOnly s)
    | exact ⟨rfl, [], rfl⟩)

end Sys2Proof.Machine
end

