-- ==== Sys2Proof/Laws/PerInstr.lean ====
section
/-! SUPPORT. The family `TableRow`: every operation's encoding lies in its row of
`spec/opcode_table.json` (its format, and its match value under its mask). -/

namespace Sys2Proof.Laws

/-- The four formats of the opcode table (R110, R112, R114, R201). -/
inductive Format where
  | hop | sig | pmode | clock
  deriving DecidableEq, Repr

namespace TableRow

/-- Format, match and mask of each row of `spec/opcode_table.json`, copied from it. -/
def row : Instr → Format × Nat × Nat
  | .reset => (.hop, 0x0000000000000000, 0xFF00000000000000)
  | .wrreg _ _ _ => (.hop, 0x0100000000000000, 0xFF00000000000000)
  | .rdreg _ _ => (.hop, 0x0200000000000000, 0xFF00000000000000)
  | .recalc _ _ _ => (.hop, 0x0300000000000000, 0xFF00000000000000)
  | .advance _ => (.hop, 0x0400000000000000, 0xFF00000000000000)
  | .waitvbl => (.hop, 0x0500000000000000, 0xFF00000000000000)
  | .vwrite _ _ _ => (.hop, 0x0600000000000000, 0xFF00000000000000)
  | .vread _ _ => (.hop, 0x0700000000000000, 0xFF00000000000000)
  | .padec _ _ => (.hop, 0x0800000000000000, 0xFF00000000000000)
  | .penpos _ _ => (.hop, 0x0900000000000000, 0xFF00000000000000)
  | .dacmask _ => (.hop, 0x0105000000000000, 0xFFFFFF0000000000)
  | .dacridx _ => (.hop, 0x0105010000000000, 0xFFFFFF0000000000)
  | .dacwidx _ => (.hop, 0x0105020000000000, 0xFFFFFF0000000000)
  | .dacwdata _ => (.hop, 0x0105030000000000, 0xFFFFFF0000000000)
  | .dacrdata => (.hop, 0x0205030000000000, 0xFFFFFF0000000000)
  | .tick => (.clock, 0x0, 0x0)
  | .blankHs => (.sig, 0x0008, 0x0008)
  | .blankHe => (.sig, 0x0010, 0x0010)
  | .blankVs => (.sig, 0x0800, 0x0800)
  | .blankVe => (.sig, 0x1000, 0x1000)
  | .retrHs => (.sig, 0x0002, 0x0002)
  | .retrHe => (.sig, 0x0004, 0x0004)
  | .retrVs => (.sig, 0x0200, 0x0200)
  | .retrVe => (.sig, 0x0400, 0x0400)
  | .htotal => (.sig, 0x0001, 0x0001)
  | .vtotal => (.sig, 0x0100, 0x0100)
  | .rActive => (.sig, 0x2020, 0x2020)
  | .rOverscanH => (.sig, 0x0040, 0x0040)
  | .rOverscanV => (.sig, 0x4000, 0x4000)
  | .rNop => (.sig, 0x0000, 0x0000)
  | .decText _ _ _ => (.pmode, 0x00000001, 0x00000001)
  | .decPlanar => (.pmode, 0x00000000, 0x00000007)
  | .decPacked => (.pmode, 0x00000002, 0x00000007)
  | .decShift256 => (.pmode, 0x00000004, 0x00000007)
  | .divFull => (.pmode, 0x00000000, 0x00000018)
  | .divHalf => (.pmode, 0x00000008, 0x00000018)
  | .divQuarter => (.pmode, 0x00000010, 0x00000018)
  | .xltByte _ => (.pmode, 0x00000000, 0x00300000)
  | .xltWord _ _ => (.pmode, 0x00100000, 0x00300000)
  | .xltDword _ => (.pmode, 0x00200000, 0x00300000)
  | .attr4 => (.pmode, 0x00000000, 0x00000060)
  | .attr8 => (.pmode, 0x00000020, 0x00000060)
  | .attr16 => (.pmode, 0x00000040, 0x00000060)
  | .dac8 => (.pmode, 0x00000000, 0x00000380)
  | .dac15 => (.pmode, 0x00000080, 0x00000380)
  | .dac16 => (.pmode, 0x00000100, 0x00000380)
  | .dac24 => (.pmode, 0x00000180, 0x00000380)
  | .dac32 => (.pmode, 0x00000200, 0x00000380)
  | .dacLut => (.pmode, 0x00000400, 0x00000400)
  | .dacSwap => (.pmode, 0x00000800, 0x00000800)
  | .monoColour => (.pmode, 0x00000000, 0x00003000)
  | .monoWhite => (.pmode, 0x00001000, 0x00003000)
  | .monoGreen => (.pmode, 0x00002000, 0x00003000)
  | .monoAmber => (.pmode, 0x00003000, 0x00003000)
  | .lumWeighted => (.pmode, 0x00000000, 0x00004000)
  | .lumUnweighted => (.pmode, 0x00004000, 0x00004000)
  | .dacLevel => (.pmode, 0x00000000, 0x00000000)
  | .dacOff => (.pmode, 0x00008000, 0x00008000)
  | .paPlanarR _ => (.pmode, 0x00000000, 0x00030000)
  | .paPlanarW _ => (.pmode, 0x00000000, 0x000C0000)
  | .paChain4R _ => (.pmode, 0x00010000, 0x00030000)
  | .paChain4W _ => (.pmode, 0x00040000, 0x000C0000)
  | .paOddevenR _ _ => (.pmode, 0x00020000, 0x00030000)
  | .paOddevenW _ _ => (.pmode, 0x00080000, 0x000C0000)
  | .paLinearR _ => (.pmode, 0x00030000, 0x00030000)
  | .paLinearW _ => (.pmode, 0x000C0000, 0x000C0000)
  | .outPixel => (.pmode, 0x00000000, 0x00000000)

/-- Whether an issue has a row's format, and its match value under its mask. A signal word is of class 0
(R113); a clock pulse has no bits. -/
def lies : Issue → Format × Nat × Nat → Prop
  | .hop w, r => r.1 = .hop ∧ w &&& BitVec.ofNat 64 r.2.2 = BitVec.ofNat 64 r.2.1
  | .poll, _ => False
  | .clock, r => r.1 = .clock
  | .sig _ cls w, r => r.1 = .sig ∧ cls = 0 ∧ w &&& BitVec.ofNat 16 r.2.2 = BitVec.ofNat 16 r.2.1
  | .pmode _ w _, r => r.1 = .pmode ∧ w &&& BitVec.ofNat 32 r.2.2 = BitVec.ofNat 32 r.2.1

/-- The operation's encoding lies in its row. -/
def Statement (i : Instr) : Prop := lies (encode i) (row i)

/-- Masking a host operation word masks its fields. -/
theorem hopWord_and (op a b c op' a' b' c' : Byte) (d d' : BitVec 32) :
    hopWord op a b c d &&& hopWord op' a' b' c' d' =
      hopWord (op &&& op') (a &&& a') (b &&& b') (c &&& c') (d &&& d') := by
  unfold hopWord
  apply BitVec.eq_of_getLsbD_eq
  intro i hi
  simp only [BitVec.getLsbD_and, BitVec.getLsbD_append]
  repeat' split
  all_goals rfl

/-- A byte masked with ones is itself. -/
theorem byte_and_ones (x : Byte) : x &&& 255#8 = x := BitVec.and_allOnes

/-- A host operation word lies in a row that fixes `op` alone. -/
theorem hop_lies (op a b c : Byte) (d : BitVec 32) :
    hopWord op a b c d &&& 0xFF00000000000000 = hopWord op 0 0 0 0 := by
  rw [show (0xFF00000000000000 : HopWord) = hopWord 0xFF 0 0 0 0 by decide, hopWord_and]
  simp [byte_and_ones]

/-- A host operation word lies in a row that fixes `op`, `a` and `b`. -/
theorem dac_lies (op a b c : Byte) (d : BitVec 32) :
    hopWord op a b c d &&& 0xFFFFFF0000000000 = hopWord op a b 0 0 := by
  rw [show (0xFFFFFF0000000000 : HopWord) = hopWord 0xFF 0xFF 0xFF 0 0 by decide, hopWord_and]
  simp [byte_and_ones]

theorem reset : Statement (.reset) :=
  ⟨rfl, (hop_lies ..).trans (by decide : hopWord 0x00 0 0 0 0 = 0x0000000000000000)⟩

theorem wrreg (sec idx val : Byte) : Statement (.wrreg sec idx val) :=
  ⟨rfl, (hop_lies ..).trans (by decide : hopWord 0x01 0 0 0 0 = 0x0100000000000000)⟩

theorem rdreg (sec idx : Byte) : Statement (.rdreg sec idx) :=
  ⟨rfl, (hop_lies ..).trans (by decide : hopWord 0x02 0 0 0 0 = 0x0200000000000000)⟩

theorem recalc (sec idx : Byte) (whole : Bool) : Statement (.recalc sec idx whole) :=
  ⟨rfl, (hop_lies ..).trans (by decide : hopWord 0x03 0 0 0 0 = 0x0300000000000000)⟩

theorem advance (n : BitVec 32) : Statement (.advance n) :=
  ⟨rfl, (hop_lies ..).trans (by decide : hopWord 0x04 0 0 0 0 = 0x0400000000000000)⟩

theorem waitvbl : Statement (.waitvbl) :=
  ⟨rfl, (hop_lies ..).trans (by decide : hopWord 0x05 0 0 0 0 = 0x0500000000000000)⟩

theorem vwrite (plane val : Byte) (off : BitVec 32) : Statement (.vwrite plane val off) :=
  ⟨rfl, (hop_lies ..).trans (by decide : hopWord 0x06 0 0 0 0 = 0x0600000000000000)⟩

theorem vread (plane : Byte) (off : BitVec 32) : Statement (.vread plane off) :=
  ⟨rfl, (hop_lies ..).trans (by decide : hopWord 0x07 0 0 0 0 = 0x0700000000000000)⟩

theorem padec (write : Bool) (addr : BitVec 32) : Statement (.padec write addr) :=
  ⟨rfl, (hop_lies ..).trans (by decide : hopWord 0x08 0 0 0 0 = 0x0800000000000000)⟩

theorem penpos (x : BitVec 15) (y : BitVec 12) : Statement (.penpos x y) :=
  ⟨rfl, (hop_lies ..).trans (by decide : hopWord 0x09 0 0 0 0 = 0x0900000000000000)⟩

theorem dacmask (val : Byte) : Statement (.dacmask val) :=
  ⟨rfl, (dac_lies ..).trans (by decide : hopWord 0x01 dacSection 0 0 0 = 0x0105000000000000)⟩

theorem dacridx (val : Byte) : Statement (.dacridx val) :=
  ⟨rfl, (dac_lies ..).trans (by decide : hopWord 0x01 dacSection 1 0 0 = 0x0105010000000000)⟩

theorem dacwidx (val : Byte) : Statement (.dacwidx val) :=
  ⟨rfl, (dac_lies ..).trans (by decide : hopWord 0x01 dacSection 2 0 0 = 0x0105020000000000)⟩

theorem dacwdata (val : Byte) : Statement (.dacwdata val) :=
  ⟨rfl, (dac_lies ..).trans (by decide : hopWord 0x01 dacSection 3 0 0 = 0x0105030000000000)⟩

theorem dacrdata : Statement (.dacrdata) :=
  ⟨rfl, (dac_lies ..).trans (by decide : hopWord 0x02 dacSection 3 0 0 = 0x0205030000000000)⟩

theorem tick : Statement (.tick) := rfl

theorem blankHs : Statement (.blankHs) := ⟨rfl, rfl, by decide⟩

theorem blankHe : Statement (.blankHe) := ⟨rfl, rfl, by decide⟩

theorem blankVs : Statement (.blankVs) := ⟨rfl, rfl, by decide⟩

theorem blankVe : Statement (.blankVe) := ⟨rfl, rfl, by decide⟩

theorem retrHs : Statement (.retrHs) := ⟨rfl, rfl, by decide⟩

theorem retrHe : Statement (.retrHe) := ⟨rfl, rfl, by decide⟩

theorem retrVs : Statement (.retrVs) := ⟨rfl, rfl, by decide⟩

theorem retrVe : Statement (.retrVe) := ⟨rfl, rfl, by decide⟩

theorem htotal : Statement (.htotal) := ⟨rfl, rfl, by decide⟩

theorem vtotal : Statement (.vtotal) := ⟨rfl, rfl, by decide⟩

theorem rActive : Statement (.rActive) := ⟨rfl, rfl, by decide⟩

theorem rOverscanH : Statement (.rOverscanH) := ⟨rfl, rfl, by decide⟩

theorem rOverscanV : Statement (.rOverscanV) := ⟨rfl, rfl, by decide⟩

theorem rNop : Statement (.rNop) := ⟨rfl, rfl, by decide⟩

theorem decText (char9 lineGraphics char16 : Bool) : Statement (.decText char9 lineGraphics char16) := by
  cases char9 <;> cases lineGraphics <;> cases char16 <;> exact ⟨rfl, by decide⟩

theorem decPlanar : Statement (.decPlanar) := ⟨rfl, by decide⟩

theorem decPacked : Statement (.decPacked) := ⟨rfl, by decide⟩

theorem decShift256 : Statement (.decShift256) := ⟨rfl, by decide⟩

theorem divFull : Statement (.divFull) := ⟨rfl, by decide⟩

theorem divHalf : Statement (.divHalf) := ⟨rfl, by decide⟩

theorem divQuarter : Statement (.divQuarter) := ⟨rfl, by decide⟩

theorem xltByte (addr : BitVec 32) : Statement (.xltByte addr) :=
  ⟨rfl, (by decide : pmodeField 0 20 &&& 0x00300000 = 0x00000000)⟩

theorem xltWord (wrapSel : Bool) (addr : BitVec 32) : Statement (.xltWord wrapSel addr) := by
  cases wrapSel
  · exact ⟨rfl, (by decide : (pmodeField 1 20 ||| pmodeBit false 22) &&& 0x00300000 = 0x00100000)⟩
  · exact ⟨rfl, (by decide : (pmodeField 1 20 ||| pmodeBit true 22) &&& 0x00300000 = 0x00100000)⟩

theorem xltDword (addr : BitVec 32) : Statement (.xltDword addr) :=
  ⟨rfl, (by decide : pmodeField 2 20 &&& 0x00300000 = 0x00200000)⟩

theorem attr4 : Statement (.attr4) := ⟨rfl, by decide⟩

theorem attr8 : Statement (.attr8) := ⟨rfl, by decide⟩

theorem attr16 : Statement (.attr16) := ⟨rfl, by decide⟩

theorem dac8 : Statement (.dac8) := ⟨rfl, by decide⟩

theorem dac15 : Statement (.dac15) := ⟨rfl, by decide⟩

theorem dac16 : Statement (.dac16) := ⟨rfl, by decide⟩

theorem dac24 : Statement (.dac24) := ⟨rfl, by decide⟩

theorem dac32 : Statement (.dac32) := ⟨rfl, by decide⟩

theorem dacLut : Statement (.dacLut) := ⟨rfl, by decide⟩

theorem dacSwap : Statement (.dacSwap) := ⟨rfl, by decide⟩

theorem monoColour : Statement (.monoColour) := ⟨rfl, by decide⟩

theorem monoWhite : Statement (.monoWhite) := ⟨rfl, by decide⟩

theorem monoGreen : Statement (.monoGreen) := ⟨rfl, by decide⟩

theorem monoAmber : Statement (.monoAmber) := ⟨rfl, by decide⟩

theorem lumWeighted : Statement (.lumWeighted) := ⟨rfl, by decide⟩

theorem lumUnweighted : Statement (.lumUnweighted) := ⟨rfl, by decide⟩

theorem dacLevel : Statement (.dacLevel) := ⟨rfl, by decide⟩

theorem dacOff : Statement (.dacOff) := ⟨rfl, by decide⟩

theorem paPlanarR (addr : BitVec 32) : Statement (.paPlanarR addr) :=
  ⟨rfl, (by decide : pmodeField 0 16 &&& 0x00030000 = 0x00000000)⟩

theorem paPlanarW (addr : BitVec 32) : Statement (.paPlanarW addr) :=
  ⟨rfl, (by decide : pmodeField 0 18 &&& 0x000C0000 = 0x00000000)⟩

theorem paChain4R (addr : BitVec 32) : Statement (.paChain4R addr) :=
  ⟨rfl, (by decide : pmodeField 1 16 &&& 0x00030000 = 0x00010000)⟩

theorem paChain4W (addr : BitVec 32) : Statement (.paChain4W addr) :=
  ⟨rfl, (by decide : pmodeField 1 18 &&& 0x000C0000 = 0x00040000)⟩

theorem paOddevenR (wrapSel : Bool) (addr : BitVec 32) : Statement (.paOddevenR wrapSel addr) := by
  cases wrapSel
  · exact ⟨rfl, (by decide : (pmodeField 2 16 ||| pmodeBit false 22) &&& 0x00030000 = 0x00020000)⟩
  · exact ⟨rfl, (by decide : (pmodeField 2 16 ||| pmodeBit true 22) &&& 0x00030000 = 0x00020000)⟩

theorem paOddevenW (wrapSel : Bool) (addr : BitVec 32) : Statement (.paOddevenW wrapSel addr) := by
  cases wrapSel
  · exact ⟨rfl, (by decide : (pmodeField 2 18 ||| pmodeBit false 22) &&& 0x000C0000 = 0x00080000)⟩
  · exact ⟨rfl, (by decide : (pmodeField 2 18 ||| pmodeBit true 22) &&& 0x000C0000 = 0x00080000)⟩

theorem paLinearR (addr : BitVec 32) : Statement (.paLinearR addr) :=
  ⟨rfl, (by decide : pmodeField 3 16 &&& 0x00030000 = 0x00030000)⟩

theorem paLinearW (addr : BitVec 32) : Statement (.paLinearW addr) :=
  ⟨rfl, (by decide : pmodeField 3 18 &&& 0x000C0000 = 0x000C0000)⟩

theorem outPixel : Statement (.outPixel) := ⟨rfl, by decide⟩

end TableRow

end Sys2Proof.Laws
end

