-- ==== Sys2Proof/Tests/Slice0.lean ====
section
/-! SUPPORT. Tests: ill-formed terms are refused, words written out from the encoding tables decode, one
step of each operation on a small state, and a witness for every statement that has hypotheses. Expected
values are the spec's worked values (named in each test) or computed by hand from the rule named. -/

namespace Sys2Proof.Tests

open Sys2Proof Sys2Proof.Machine

/-! ### WellFormed: the spellings that have rows of their own -/

theorem test_wf_refuses_dac_writes : (Instr.wrreg 5 0 1).wf = false ∧ (Instr.wrreg 5 3 1).wf = false := by decide

theorem test_wf_refuses_dac_read : (Instr.rdreg 5 3).wf = false := by decide

theorem test_wf_takes_the_rest :
    (Instr.wrreg 5 4 1).wf = true ∧ (Instr.wrreg 4 0 1).wf = true ∧ (Instr.rdreg 5 2).wf = true := by decide

/-! ### Decode: words from spec/30_encoding.md and spec/opcode_table.json -/

/-- Every word of the list decodes to the operation beside it. -/
def allDecode (l : List (Issue × Instr)) : Bool := l.all fun p => decode p.1 == .ok p.2

/-- R110, R111: op, a, b, c, d from the top; the words of 95_test_vectors.md where it lists one. -/
theorem test_decode_hop : allDecode [
    (.hop 0x0000000000000000, .reset),
    (.hop 0x01010C0600000000, .wrreg 1 0x0C 6),
    (.hop 0x02012A0000000000, .rdreg 1 0x2A),
    (.hop 0x0302000100000000, .recalc 2 0 true),
    (.hop 0x0300000000000000, .recalc 0 0 false),
    (.hop 0x0400000000057B20, .advance 359200),
    (.hop 0x0500000000000000, .waitvbl),
    (.hop 0x0602008100001820, .vwrite 2 0x81 0x1820),
    (.hop 0x070300000000FFFF, .vread 3 0xFFFF),
    (.hop 0x08FF000000012345, .padec true 0x12345),
    (.hop 0x0900000000010003, .penpos 3 1),
    (.hop 0x09000000FFFFFFFF, .penpos 0x7FFF 0xFFF)] = true := by decide

/-- R160 to R164: the DAC rows are the words of the register accesses they spell. -/
theorem test_decode_dac_rows : allDecode [
    (.hop 0x010500FF00000000, .dacmask 0xFF),
    (.hop 0x0105011000000000, .dacridx 0x10),
    (.hop 0x0105021100000000, .dacwidx 0x11),
    (.hop 0x0105037F00000000, .dacwdata 0x7F),
    (.hop 0x0105048000000000, .wrreg 5 4 0x80),
    (.hop 0x0205030000000000, .dacrdata),
    (.hop 0x0205020000000000, .rdreg 5 2)] = true := by decide

/-- R112, R116: one bit for each boundary micro-operation. -/
theorem test_decode_boundary : allDecode [
    (.clock, .tick),
    (.sig .blankHs 0 0x0008, .blankHs), (.sig .blankHe 0 0x0010, .blankHe),
    (.sig .blankVs 0 0x0800, .blankVs), (.sig .blankVe 0 0x1000, .blankVe),
    (.sig .retrHs 0 0x0002, .retrHs), (.sig .retrHe 0 0x0004, .retrHe),
    (.sig .retrVs 0 0x0200, .retrVs), (.sig .retrVe 0 0x0400, .retrVe),
    (.sig .htotal 0 0x0001, .htotal), (.sig .vtotal 0 0x0100, .vtotal),
    (.sig .blankVs 3 0x4A20, .blankVs)] = true := by decide

/-- R113: class 0 with both active bits, then either overscan bit, then nothing. -/
theorem test_decode_render : allDecode [
    (.sig .render 0 0x2020, .rActive), (.sig .render 0 0x2040, .rOverscanH),
    (.sig .render 0 0x4020, .rOverscanV), (.sig .render 0 0x0020, .rNop),
    (.sig .render 1 0x2020, .rNop), (.sig .render 2 0x4040, .rNop)] = true := by decide

/-- R114: the stage variants; the other fields of the image are set too, and do not matter. -/
theorem test_decode_stages : allDecode [
    (.pmode .decode 0x00800007 0, .decText true false false),
    (.pmode .decode 0x03000001 0, .decText false true true),
    (.pmode .decode 0xFFFFFFF8 0, .decPlanar), (.pmode .decode 0x00000002 0, .decPacked),
    (.pmode .decode 0x00000004 0, .decShift256),
    (.pmode .divider 0xFFFFFFE7 0, .divFull), (.pmode .divider 0x00000008 0, .divHalf),
    (.pmode .divider 0x00000010 0, .divQuarter),
    (.pmode .resolver 0xFFFFFF9F 0, .attr4), (.pmode .resolver 0x00000020 0, .attr8),
    (.pmode .resolver 0x00000040 0, .attr16),
    (.pmode .depth 0xFFFFFC7F 0, .dac8), (.pmode .depth 0x00000080 0, .dac15),
    (.pmode .depth 0x00000100 0, .dac16), (.pmode .depth 0x00000180 0, .dac24),
    (.pmode .depth 0x00000200 0, .dac32)] = true := by decide

/-- R114: the colour stages and the output. -/
theorem test_decode_colour : allDecode [
    (.pmode .lut 0x00000400 0, .dacLut), (.pmode .swap 0x00000800 0, .dacSwap),
    (.pmode .mono 0xFFFFCFFF 0, .monoColour), (.pmode .mono 0x00001000 0, .monoWhite),
    (.pmode .mono 0x00002000 0, .monoGreen), (.pmode .mono 0x00003000 0, .monoAmber),
    (.pmode .lum 0xFFFFBFFF 0, .lumWeighted), (.pmode .lum 0x00004000 0, .lumUnweighted),
    (.pmode .level 0 0, .dacLevel), (.pmode .off 0x00008000 0, .dacOff),
    (.pmode .output 0 0, .outPixel)] = true := by decide

/-- R114: the address stages, with the address they translate. -/
theorem test_decode_addresses : allDecode [
    (.pmode .translate 0xFFCFFFFF 5, .xltByte 5), (.pmode .translate 0x00100000 5, .xltWord false 5),
    (.pmode .translate 0x00500000 5, .xltWord true 5), (.pmode .translate 0x00200000 5, .xltDword 5),
    (.pmode .paRead 0xFFFCFFFF 5, .paPlanarR 5), (.pmode .paWrite 0xFFF3FFFF 5, .paPlanarW 5),
    (.pmode .paRead 0x00010000 5, .paChain4R 5), (.pmode .paWrite 0x00040000 5, .paChain4W 5),
    (.pmode .paRead 0x00420000 5, .paOddevenR true 5), (.pmode .paWrite 0x00080000 5, .paOddevenW false 5),
    (.pmode .paRead 0x00030000 5, .paLinearR 5), (.pmode .paWrite 0x000C0000 5, .paLinearW 5)] = true := by
  decide

/-- R119, U3: what stands for no operation. -/
theorem test_decode_rejects :
    decode (.hop 0x0A00000000000000) = .error (.unmappedPort 0x0A) ∧
    decode (.hop 0xFF123456789ABCDE) = .error (.unmappedPort 0xFF) ∧
    decode (.pmode .decode 0x00000006 0) = .error (.reserved .shiftMode) ∧
    decode (.pmode .divider 0x00000018 0) = .error (.reserved .pixelDiv) ∧
    decode (.pmode .translate 0x00300000 0) = .error (.reserved .addrMode) ∧
    decode (.pmode .resolver 0x00000060 0) = .error (.reserved .attrMode) ∧
    decode (.pmode .depth 0x00000280 0) = .error (.reserved .dacMode) ∧
    decode (.sig .htotal 0 0xFFFE) = .error .notSelected := by decide

/-- Bare table words: 64 bits HOP, 32 bits PMODE, 16 bits SIG, none CLOCK. -/
theorem test_decode_table_words :
    decodeTableWord 64 0x01010C0600000000 = some (.wrreg 1 0x0C 6) ∧
    decodeTableWord 64 0x0105030000000000 = some (.dacwdata 0) ∧
    decodeTableWord 32 0x00000180 = some .dac24 ∧ decodeTableWord 32 0x000C0000 = some (.paLinearW 0) ∧
    decodeTableWord 16 0x0200 = some .retrVs ∧ decodeTableWord 16 0x2020 = some .rActive ∧
    decodeTableWord 0 0 = some .tick ∧ decodeTableWord 64 0x0A00000000000000 = none := by decide

/-! ### Small states -/

/-- A field of the next state, if there is one. -/
def look {α : Type} (o : Out) (f : State → α) : Option α :=
  match o with
  | .next t => some (f t)
  | _ => none

/-- The breakpoints of program 1 (95_test_vectors.md T17, T18). -/
def h1 : Breakpoints 15 := ⟨0, 16, 24, 40, 24, 32, 48⟩
def v1 : Breakpoints 12 := ⟨0, 2, 3, 5, 3, 4, 6⟩

/-- A screen set up as program 1 sets it up (T30): identity palette16, all colour planes, mask 0xFF,
`PAL[5] = (20, 43, 5)`, the dword AA, 55, AA, 55 at offset 0, rows 2 addresses apart. -/
def screen : State := { State.reset with
  P := { Precalc.reset with
    h := h1
    v := v1
    crtc := { Precalc.reset.crtc with rowSize := 2 }
    attr := { Precalc.reset.attr with
      palette16 := #v[0, 1, 2, 3, 4, 5, 6, 7, 8, 9, 10, 11, 12, 13, 14, 15], colorPlaneEnable := 0xF }
    dac := { Precalc.reset.dac with dacMask := 0xFF } }
  htab := some h1
  vtab := some v1
  pal := [(20, 20), (21, 43), (22, 5)]
  vram := [(0, 0xAA), (1, 0x55), (2, 0xAA), (3, 0x55)] }

/-- The screen at a position. -/
def screenAt (x : BitVec 15) (y : BitVec 12) : State :=
  { screen with S := { Runtime.reset with x := x, y := y, outX := x, outY := y } }

/-- The state after RESET with other stage registers. -/
def staged (p : Pipe) : State := { State.reset with pipe := p }

/-- The screen with a colour in the stage registers: that of T6 and R331. -/
def coloured : State := { screen with pipe := { Pipe.empty with rgba := some ⟨81, 174, 20, 255⟩ } }

/-! ### Host operations -/

theorem test_reset_clears : look (exec .reset { screen with dacs := ⟨1, 2, 3, 1⟩ })
    (fun t => (t.htab, t.pal, t.dacs, t.vram)) = some (none, [], ⟨0, 0, 0, 0⟩, screen.vram) := by decide

theorem test_reset_registers : look (exec .reset (screenAt 5 3)) (·.S) = some Runtime.reset ∧
    look (exec .reset (screenAt 5 3)) (·.P) = some Precalc.reset := by decide

/-- T10: bit 7 of ATTR_MODE does not exist. -/
theorem test_wrreg_masks : look (exec (.wrreg 4 0x10 0xFF) State.reset)
    (fun t => (t.result, regAt t.reg 4 0x10, t.P.attr.attrMode)) = some (.applied true, 0x7F, 3) := by decide

/-- T12: the guard of the timing registers. -/
theorem test_wrreg_protected : look (exec (.wrreg 1 0x0C 9) { State.reset with reg := [(0x10C, 4), (0x129, 0x80)] })
    (fun t => (t.result, regAt t.reg 1 0x0C)) = some (.applied false, 4) := by decide

/-- T10: an index that names no register reads 0xFF. -/
theorem test_rdreg_invalid : look (exec (.rdreg 1 0x2A) State.reset) (·.result) = some (.byte 0xFF) := by decide

theorem test_rdreg_stored : look (exec (.rdreg 2 0) { State.reset with reg := [(0x200, 0x27)] }) (·.result) =
    some (.byte 0x27) := by decide

/-- T27: RECALC ALL after RESET builds the tables from zero breakpoints: all boundary bits at 0. -/
theorem test_recalc_all : look (exec (.recalc 0 0 false) State.reset)
    (fun t => (htabAt t 0, vtabAt t 0, htabAt t 1, t.P)) = some (0x001F, 0x1F00, 0, Precalc.reset) := by decide

/-- T32: the idle machine. -/
theorem test_advance_idle : look (exec (.advance 3) State.reset) (fun t => (t.S.x, t.S.y, t.events)) =
    some (3, 0, []) := by decide

theorem test_waitvbl_begins : look (exec .waitvbl { State.reset with S := { Runtime.reset with vblankFlag := true } })
    (fun t => (t.S.vblankFlag, t.waiters)) = some (false, [0]) := by decide

theorem test_waitvbl_released :
    look (exec .waitvbl { State.reset with S := { Runtime.reset with vblankFlag := true }, waiters := [1, 0] })
      (fun t => (t.S.vblankFlag, t.waiters)) = some (true, [1]) := by decide

/-- T14: VWRITE masks the offset; plane 2 reports. -/
theorem test_vwrite_masked : look (exec (.vwrite 0 0x5A 0x12345) State.reset) (fun t => (t.vram, t.events)) =
    some ([(4 * 0x2345, 0x5A)], []) := by decide

theorem test_vwrite_plane2 : look (exec (.vwrite 2 0x81 0x1820) State.reset) (fun t => (t.vram, t.events)) =
    some ([(4 * 0x1820 + 2, 0x81)], [.plane23 2 0x1820]) := by decide

/-- T11: there is no plane 4. -/
theorem test_vread_plane4 : look (exec (.vread 4 0) screen) (·.result) = some (.byte 0xFF) := by decide

theorem test_vread_plane1 : look (exec (.vread 1 0x10000) screen) (·.result) = some (.byte 0x55) := by decide

/-- T61, T62: read ODDEVEN, write LINEAR. -/
theorem test_padec : let s := { State.reset with P := { Precalc.reset with
      mem := { Precalc.reset.mem with paRead := 2, paWrite := 3 } } }
    look (exec (.padec false 0x12345) s) (·.result) = some (.planeAddr 0xA 0x12344) ∧
    look (exec (.padec true 0x12345) s) (·.result) = some (.planeAddr 0x2 0x48D1) := by decide

theorem test_penpos : look (exec (.penpos 3 1) State.reset) (fun t => (t.S.penX, t.S.penY)) = some (3, 1) := by
  decide

theorem test_dacmask : look (exec (.dacmask 0x0F) screen) (fun t => (t.P.dac.dacMask, t.result)) =
    some (0x0F, .applied true) := by decide

theorem test_dacridx : look (exec (.dacridx 0x10) { screen with dacs := ⟨7, 1, 9, 2⟩ }) (·.dacs) =
    some ⟨7, 1, 0x10, 0⟩ := by decide

theorem test_dacwidx : look (exec (.dacwidx 0x10) { screen with dacs := ⟨7, 1, 9, 2⟩ }) (·.dacs) =
    some ⟨0x10, 0, 9, 2⟩ := by decide

/-- T13: a seven-bit value loses its top bit; the third write steps the index and wraps it. -/
theorem test_dacwdata : look (exec (.dacwdata 0x7F) { screen with dacs := ⟨0xFF, 2, 9, 2⟩ })
    (fun t => (t.dacs, palAt t.pal 0xFF 2)) = some (⟨0, 0, 9, 2⟩, 0x3F) := by decide

theorem test_dacrdata : look (exec .dacrdata { screen with dacs := ⟨7, 1, 5, 1⟩ }) (fun t => (t.dacs, t.result)) =
    some (⟨7, 1, 5, 2⟩, .byte 43) := by decide

/-! ### The tick and its micro-operations -/

/-- T30, tick 0. -/
theorem test_tick_active : look (exec .tick screen) (fun t => (t.S.x, t.events)) =
    some (1, [.pix 0 0 ⟨81, 174, 20, 255⟩, .pen 0 true]) := by decide

/-- T30, tick 144: the row counter reaches vertical retrace. -/
theorem test_tick_frame : look (exec .tick (screenAt 48 2)) (fun t => (t.S.x, t.S.y, t.S.frameCtr, t.events)) =
    some (1, 3, 1, [.frame]) := by decide

theorem test_blank_latches :
    look (exec .blankHs screen) (·.S.hblank) = some true ∧ look (exec .blankVs screen) (·.S.vblank) = some true ∧
    look (exec .blankHe { screen with S := { Runtime.reset with hblank := true, vblank := true } })
      (fun t => (t.S.hblank, t.S.vblank)) = some (false, true) ∧
    look (exec .blankVe { screen with S := { Runtime.reset with hblank := true, vblank := true } })
      (fun t => (t.S.hblank, t.S.vblank)) = some (true, false) := by decide

theorem test_retrace_latches :
    look (exec .retrHs screen) (·.S.hretrace) = some true ∧
    look (exec .retrHe { screen with S := { Runtime.reset with hretrace := true, vretrace := true } })
      (fun t => (t.S.hretrace, t.S.vretrace)) = some (false, true) ∧
    look (exec .retrVe { screen with S := { Runtime.reset with hretrace := true, vretrace := true } })
      (fun t => (t.S.hretrace, t.S.vretrace)) = some (true, false) := by decide

/-- R204: the frame event belongs to the 0 -> 1 edge. -/
theorem test_retrVs_edge :
    look (exec .retrVs screen) (fun t => (t.S.vretrace, t.S.vblankFlag, t.S.frameCtr, t.events)) =
      some (true, true, 1, [.frame]) ∧
    look (exec .retrVs { screen with S := { Runtime.reset with vretrace := true } })
      (fun t => (t.S.vblankFlag, t.S.frameCtr, t.events)) = some (false, 0, []) := by decide

theorem test_htotal : look (exec .htotal (screenAt 48 0))
    (fun t => (t.S.x, t.S.y, t.S.outX, t.S.scanline, t.S.memaddr)) = some (0, 1, 0, 1, 2) := by decide

/-- R205: a row outside the active display does not step the memory address. -/
theorem test_htotal_border : look (exec .htotal (screenAt 48 2))
    (fun t => (t.S.x, t.S.y, t.S.scanline, t.S.memaddr)) = some (0, 3, 0, 0) := by decide

theorem test_vtotal : let s := { screenAt 0 6 with P := { screen.P with
      crtc := { screen.P.crtc with startAddress := 0xFFFF, bytePanning := 3 } } }
    look (exec .vtotal s) (fun t => (t.S.y, t.S.latStart, t.S.memaddr, t.S.bytepan)) =
      some (0, 0xFFFF, 2, 3) := by decide

theorem test_rActive : look (exec .rActive screen) (fun t => (t.S.activePx, t.S.lastEmit, t.events.length)) =
    some (1, some ⟨81, 174, 20, 255⟩, 2) := by decide

/-- R241: at divider phase 1 of DIV.HALF the last colour is shown again. -/
theorem test_rActive_held : let s := { screen with
      P := { screen.P with clk := { screen.P.clk with pixelDiv := 1 } }
      S := { Runtime.reset with divPhase := 1, lastEmit := some ⟨1, 2, 3, 4⟩, outX := 7 } }
    look (exec .rActive s) (fun t => (t.S.divPhase, t.S.activePx, t.events)) =
      some (0, 0, [.pix 7 0 ⟨1, 2, 3, 4⟩, .pen 0 false]) := by decide

theorem test_rOverscanH : look (exec .rOverscanH { screen with P := { screen.P with
      attr := { screen.P.attr with overscanIndex := 5 } } }) (·.events) =
    some [.pix 0 0 ⟨81, 174, 20, 255⟩, .pen 0 true] := by decide

/-- T30, tick 192: a blanked border gives the pen alone. -/
theorem test_rOverscanV_blanked : look (exec .rOverscanV { screen with
      S := { Runtime.reset with vblank := true, outX := 4 } }) (fun t => (t.S.outX, t.events)) =
    some (5, [.pen 0 false]) := by decide

theorem test_rNop : exec .rNop screen = .next screen := rfl

/-! ### Decode and attribute -/

/-- The unit a decode operation leaves in the stage registers. -/
def unitOf (t : State) : Option (BitVec 16 × Bool × Bool) := t.pipe.ai.map fun a => (a.attr, a.font, a.phase)

/-- T6: 5, 10, 5, 10, ... -/
theorem test_decPlanar :
    look (exec .decPlanar screen) unitOf = some (some (5, false, false)) ∧
    look (exec .decPlanar { screen with S := { Runtime.reset with activePx := 7 } }) unitOf =
      some (some (10, false, true)) := by decide

/-- T43: the dword AA, 55, AA, 55 is AAAA5555. -/
theorem test_decPacked :
    look (exec .decPacked screen) unitOf = some (some (0xA, false, false)) ∧
    look (exec .decPacked { screen with S := { Runtime.reset with activePx := 5 } }) unitOf =
      some (some (5, false, true)) := by decide

/-- R252: the nibbles of AA, then of 55; whole bytes in ATTR16. -/
theorem test_decShift256 :
    look (exec .decShift256 { screen with S := { Runtime.reset with activePx := 3 } }) unitOf =
      some (some (5, false, true)) ∧
    look (exec .decShift256 { screen with P := { screen.P with attr := { screen.P.attr with attrMode := 2 } } })
      unitOf = some (some (0xAA, false, false)) := by decide

/-- R243 to R246: character 0x41 with attribute 0x1E, font row 0x80 at 32 * 0x41. -/
theorem test_decText : let s := { screen with vram := [(0, 0x41), (1, 0x1E), (4 * 0x820 + 2, 0x80)] }
    look (exec (.decText false false false) { s with P := { s.P with
      crtc := { s.P.crtc with cursorEnable := false } } }) unitOf = some (some (0x1E, true, false)) := by decide

/-- R246: the ninth dot of a line-graphics character repeats the eighth. -/
theorem test_decText_ninth : let s := { screen with
      vram := [(0, 0xC4), (1, 0x07), (4 * (32 * 0xC4) + 2, 0x01)]
      P := { screen.P with crtc := { screen.P.crtc with cursorEnable := false } }
      S := { Runtime.reset with activePx := 8 } }
    look (exec (.decText true true false) s) unitOf = some (some (7, true, false)) ∧
    look (exec (.decText true false false) s) unitOf = some (some (7, false, false)) := by decide

theorem test_dividers :
    look (exec .divFull State.reset) (fun t => (t.S.divPhase, t.result)) = some (0, .reload true) ∧
    look (exec .divHalf { State.reset with S := { Runtime.reset with divPhase := 1 } })
      (fun t => (t.S.divPhase, t.result)) = some (0, .reload false) ∧
    look (exec .divQuarter { State.reset with S := { Runtime.reset with divPhase := 1 } })
      (fun t => (t.S.divPhase, t.result)) = some (2, .reload false) := by decide

/-- The unit of an attribute test. -/
def unit (attr : BitVec 16) (phase : Bool) : Pipe := { Pipe.empty with ai := some ⟨attr, true, .bits4, phase⟩ }

theorem test_attr4 : look (exec .attr4 { screen with pipe := unit 0x3C false }) (·.pipe.val) =
    some (some ⟨0x0C, 1⟩) := by decide

/-- R295: the first nibble is the high one, and the palette16 is bypassed. -/
theorem test_attr8 : let s := { screen with P := { screen.P with attr := { Precalc.reset.attr with
      attrMode := 1, colorPlaneEnable := 0xF } } }
    look (exec .attr8 { s with pipe := unit 0x03 false }) (fun t => (t.pipe.val, t.S.attrLatch)) = some (none, 3) ∧
    look (exec .attr8 { s with pipe := unit 0x04 true, S := { Runtime.reset with attrLatch := 3 } })
      (·.pipe.val) = some (some ⟨0x34, 1⟩) := by decide

/-- R297: the first byte is the low one. -/
theorem test_attr16 :
    look (exec .attr16 { screen with pipe := unit 0x34 false }) (fun t => (t.pipe.val, t.S.attrLatch)) =
      some (none, 0x34) ∧
    look (exec .attr16 { screen with pipe := unit 0x12 true, S := { Runtime.reset with attrLatch := 0x34 } })
      (·.pipe.val) = some (some ⟨0x1234, 2⟩) := by decide

/-- R302: text attributes. -/
def textP (mono blink : Bool) : Precalc := { screen.P with
  gfx := { textMode := true, shiftMode := 0 }
  crtc := { screen.P.crtc with underlineLocation := 12 }
  attr := { screen.P.attr with monoAttr := mono, blinkEnable := blink } }

/-- R302, row by row. -/
theorem test_attrEntry : let e mono bl := attrEntry Config.defaultParams (textP mono bl)
    e false false 0x1E true true 0 = 0x0E ∧ e false false 0x1E false true 0 = 0x01 ∧
    e false false 0x9E false true 0 = 0x09 ∧ e false true 0x9E false true 0 = 0x01 ∧
    e false true 0x9E true true 0 = 0x0E ∧ e false true 0x9E true false 0 = 0x01 ∧
    e false false 0x01 false true 12 = 0x01 ∧ e false false 0x01 false true 11 = 0x00 ∧
    e true false 0x08 true true 0 = 0x00 ∧ e false false 0x08 true true 0 = 0x08 ∧
    e false true 0x81 false false 12 = 0x00 := by decide

/-! ### Plane addresses: R278 -/

theorem test_pa :
    look (exec (.paPlanarR 0x1234) screen) (·.result) = some (.planeAddr 0xF 0x1234) ∧
    look (exec (.paPlanarW 0x12345) screen) (·.result) = some (.planeAddr 0xF 0x12345) ∧
    look (exec (.paChain4R 0x1237) screen) (·.result) = some (.planeAddr 0x8 0x1234) ∧
    look (exec (.paChain4W 0x4002) screen) (·.result) = some (.planeAddr 0x4 0x4001) ∧
    look (exec (.paOddevenR false 0x1235) screen) (·.result) = some (.planeAddr 0xA 0x1234) ∧
    look (exec (.paLinearR 0x1237) screen) (·.result) = some (.planeAddr 0x8 0x048D) ∧
    look (exec (.paLinearW 0x12345) screen) (·.result) = some (.planeAddr 0x2 0x48D1) := by decide

theorem test_pa_oddeven_word : let s := { screen with P := { screen.P with
      crtc := { screen.P.crtc with addrMode := 1 } } }
    look (exec (.paOddevenR false 0x4001) s) (·.result) = some (.planeAddr 0xA 0x4001) ∧
    look (exec (.paOddevenW true 0x10000) s) (·.result) = some (.planeAddr 0x5 0x10001) := by decide

theorem test_xlt :
    look (exec (.xltByte 0x2345) screen) (·.result) = some (.offset 0x2345) ∧
    look (exec (.xltWord false 0x2345) screen) (·.result) = some (.offset 0x468B) ∧
    look (exec (.xltWord true 0x8001) screen) (·.result) = some (.offset 0x0003) ∧
    look (exec (.xltDword 0x3001) screen) (·.result) = some (.offset 0xC007) := by decide

/-! ### Colours: R327, R331 -/

/-- A value in the stage registers. -/
def value (v : BitVec 16) (n : Nat) : Pipe := { Pipe.empty with val := some ⟨v, n⟩ }

theorem test_dac8 : look (exec .dac8 { screen with pipe := value 0x05 1 }) (fun t => (t.S.lastColor, t.pipe.rgba)) =
    some (5, some ⟨81, 174, 20, 255⟩) := by decide

/-- R327: the low byte first, no pixel on the first of the two ticks. -/
theorem test_dac16_latch :
    look (exec .dac16 (staged (value 0x34 1))) (fun t => (t.S.dacLatch, t.S.dacCount, t.pipe.rgba)) =
      some (0x3400, 1, none) ∧
    look (exec .dac16 { staged (value 0x12 1) with S := { Runtime.reset with dacLatch := 0x3400, dacCount := 1 } })
      (fun t => (t.S.dacCount, t.S.lastColor, t.pipe.rgba)) = some (0, 0x1234, some ⟨16, 69, 165, 255⟩) := by decide

theorem test_dac15 : look (exec .dac15 (staged (value 0x1234 2))) (·.pipe.rgba) =
    some (some ⟨33, 140, 165, 255⟩) := by decide

theorem test_dac24 : look (exec .dac24 { staged (value 0x11 1) with
      S := { Runtime.reset with dacLatch := 0x223300, dacCount := 2 } }) (·.pipe.rgba) =
    some (some ⟨0x11, 0x22, 0x33, 255⟩) := by decide

theorem test_dac32 : look (exec .dac32 { staged (value 0x8011 2) with
      S := { Runtime.reset with dacLatch := 0x22330000, dacCount := 2 } }) (·.pipe.rgba) =
    some (some ⟨0x11, 0x22, 0x33, 0x80⟩) := by decide

theorem test_dacSwap : let s := { staged { Pipe.empty with raw := some 0x1234 } with
      P := { Precalc.reset with dac := { Precalc.reset.dac with dacMode := 2 } } }
    look (exec .dacSwap s) (·.pipe.raw) = some (some 0x3412) := by decide

/-- R331: 16-bit colour with the swap. -/
theorem test_dac16_swapped : let s := { staged (value 0x1234 2) with
      P := { Precalc.reset with dac := { Precalc.reset.dac with dacMode := 2, dacSwap := true } } }
    look (exec .dac16 s) (·.pipe.rgba) = some (some ⟨49, 130, 148, 255⟩) := by decide

theorem test_dacLut : look (exec .dacLut { screen with pipe := { Pipe.empty with rgba := some ⟨5, 5, 5, 9⟩ } })
    (·.pipe.rgba) = some (some ⟨81, 174, 20, 9⟩) := by decide

theorem test_mono :
    look (exec .monoColour coloured) (·.pipe.rgba) = some (some ⟨81, 174, 20, 255⟩) ∧
    look (exec .monoGreen coloured) (·.pipe.rgba) = some (some ⟨0, 128, 0, 255⟩) ∧
    look (exec .monoAmber coloured) (·.pipe.rgba) = some (some ⟨128, 95, 0, 255⟩) ∧
    look (exec .monoWhite { coloured with P := { screen.P with dac := { screen.P.dac with lumMethod := true } } })
      (·.pipe.rgba) = some (some ⟨91, 91, 91, 255⟩) := by decide

theorem test_lum :
    look (exec .lumWeighted coloured) (·.result) = some (.byte 128) ∧
    look (exec .lumUnweighted coloured) (·.result) = some (.byte 91) := by decide

theorem test_dacLevel : look (exec .dacLevel { coloured with
      par := { Config.defaultParams with dacLevel := List.replicate 100 7 } }) (·.pipe.rgba) =
    some (some ⟨7, 174, 7, 255⟩) := by decide

theorem test_dacOff : look (exec .dacOff coloured) (·.pipe.rgba) = some (some ⟨0, 0, 0, 255⟩) := by decide

theorem test_outPixel : look (exec .outPixel coloured) (fun t => (t.S.outX, t.events)) =
    some (1, [.pix 0 0 ⟨81, 174, 20, 255⟩, .pen 0 true]) := by decide

/-! ### Witnesses: for every statement with hypotheses, inputs that meet them -/

/-- The state after RESET with something requested. -/
def asked (q : List Request) : State := { State.reset with queue := q }

theorem witness_DecodeAndEncodeAgree : (Instr.wrreg 5 4 1).wf = true ∧ (Instr.rdreg 5 2).wf = true ∧
    decode (.hop 0x0105048000000000) = .ok (.wrreg 5 4 0x80) := by decide

theorem witness_UnusedBitsIgnored :
    (let w : HopWord := 0x0900000000010003
     let w' : HopWord := 0x09FFFFFFF0018003
     hopOp w = hopOp w' ∧ w &&& hopUsed (hopOp w) = w' &&& hopUsed (hopOp w)) ∧
    (let w : HopWord := 0x0300000000000000
     let w' : HopWord := 0x030000FEFFFFFFFF
     hopOp w = hopOp w' ∧ w &&& hopUsed (hopOp w) = w' &&& hopUsed (hopOp w)) := by decide

theorem witness_StepRunsDecoded : let s := asked [⟨0, .hop 0x0900000000010003⟩]
    (s.queue = ⟨0, .hop 0x0900000000010003⟩ :: [] ∧ s.waiters.contains 0 = false ∧
      decode (.hop 0x0900000000010003) = .ok (.penpos 3 1)) ∧ decodeTableWord 16 0x0001 = some .htotal := by decide

theorem witness_StepWithoutOperation :
    (0x0A ≤ (hopOp 0x0A00000000000000).toNat ∧ 0x0A ≤ (hopOp 0xFF123456789ABCDE).toNat) ∧
    (let s := asked [⟨0, .hop 0x0A00000000000000⟩]
     s.queue = ⟨0, .hop 0x0A00000000000000⟩ :: [] ∧ s.waiters.contains 0 = false ∧
      decode (.hop 0x0A00000000000000) = .error (.unmappedPort 0x0A)) ∧
    (let s := asked [⟨0, .pmode .divider 0x18 0⟩]
     s.queue = ⟨0, .pmode .divider 0x18 0⟩ :: [] ∧ s.waiters.contains 0 = false ∧
      decode (.pmode .divider 0x18 0) = .error (.reserved .pixelDiv)) := by decide

/-- Caller 0 is inside WAITVBL, caller 1 is not. -/
def waitingState (flag : Bool) (q : List Request) : State := { State.reset with
  queue := q, waiters := [0], S := { Runtime.reset with vblankFlag := flag } }

theorem witness_WaitingCallerTurns :
    (let s := waitingState false [⟨0, .poll⟩]
     s.queue = ⟨0, .poll⟩ :: [] ∧ s.waiters.contains 0 = true ∧ s.S.vblankFlag = false) ∧
    (let s := waitingState true [⟨0, .hop 0⟩]
     s.queue = ⟨0, .hop 0⟩ :: [] ∧ s.waiters.contains 0 = true ∧ s.S.vblankFlag = true) ∧
    (let s := waitingState false [⟨0, .hop 0⟩, ⟨1, .clock⟩]
     s.queue = ⟨0, .hop 0⟩ :: ⟨1, .clock⟩ :: [] ∧ s.waiters.contains 0 = true ∧ s.S.vblankFlag = false ∧
      Issue.hop 0 ≠ .poll ∧ s.waiters.contains 1 = false ∧ decode .clock = .ok .tick) := by decide

theorem witness_WaitvblBeginsAndPolls :
    State.reset.waiters.contains State.reset.actor = false ∧
    (let s := waitingState true []
     s.waiters.contains s.actor = true ∧ s.S.vblankFlag = true) ∧
    (let s := waitingState false []
     s.waiters.contains s.actor = true ∧ s.S.vblankFlag = false) := by decide

theorem witness_IdleWhileTablesZero : State.reset.htab = none ∧ State.reset.vtab = none := by decide

/-- The state after RESET with the guard of the timing registers set. -/
def guarded : State := { State.reset with reg := [(0x129, 0x80)] }

theorem witness_TimingRegistersProtected :
    guarded.reg.wf = true ∧ (0x1B : Byte).toNat ≤ 0x1B ∧ (regAt guarded.reg 1 0x29).getLsbD 7 = true ∧
    State.reset.reg.wf = true ∧ (regAt State.reset.reg 1 0x29).getLsbD 7 = false := by decide

theorem reset_precalcCurrent : PrecalcCurrent State.reset := by
  show Precalc.reset = derive []
  decide

theorem guarded_precalcCurrent : PrecalcCurrent { guarded with P := derive guarded.reg } := rfl

theorem witness_RegisterWrite :
    validIndex 1 0x2A = false ∧ validIndex 6 0 = false ∧
    (State.reset.reg.wf = true ∧ State.reset.par.precalcExt = false ∧ PrecalcCurrent State.reset ∧
      validIndex 1 0x1B = true ∧
      ¬((1 : Byte) = 1 ∧ (0x1B : Byte).toNat ≤ 0x1B ∧ (regAt State.reset.reg 1 0x29).getLsbD 7 = true) ∧
      ¬((1 : Byte) = 5 ∧ 1 ≤ (0x1B : Byte).toNat ∧ (0x1B : Byte).toNat ≤ 3)) ∧
    (validIndex 1 0x1C = true ∧
      ¬((1 : Byte) = 1 ∧ (0x1C : Byte).toNat ≤ 0x1B ∧ (regAt guarded.reg 1 0x29).getLsbD 7 = true)) ∧
    (validIndex 5 4 = true ∧ ¬((5 : Byte) = 5 ∧ 1 ≤ (4 : Byte).toNat ∧ (4 : Byte).toNat ≤ 3)) :=
  ⟨by decide, by decide, ⟨by decide, by decide, reset_precalcCurrent, by decide, by decide, by decide⟩, by decide,
    by decide⟩

theorem witness_RegisterRead :
    State.reset.dacs.rsub = 0 ∧ { State.reset with dacs := ⟨0, 0, 9, 1⟩ }.dacs.rsub = 1 ∧
    { State.reset with dacs := ⟨0, 0, 0xFF, 2⟩ }.dacs.rsub = 2 := by decide

theorem witness_DacDataWrite :
    (Canonical State.reset ∧ State.reset.par.precalcExt = false ∧ PrecalcCurrent State.reset ∧
      State.reset.dacs.wsub ≠ 3) ∧
    (let s := { State.reset with dacs := ⟨0xFF, 2, 0, 0⟩ }
     Canonical s ∧ s.par.precalcExt = false ∧ PrecalcCurrent s ∧ s.dacs.wsub ≠ 3) :=
  ⟨⟨⟨rfl, rfl, rfl⟩, rfl, reset_precalcCurrent, by decide⟩, ⟨rfl, rfl, rfl⟩, rfl, reset_precalcCurrent, by decide⟩

theorem witness_DacMaskAndIndexWrites :
    State.reset.reg.wf = true ∧ State.reset.par.precalcExt = false ∧ PrecalcCurrent State.reset :=
  ⟨rfl, rfl, reset_precalcCurrent⟩

theorem witness_DacRoundTrip : State.reset.pal.wf = true := by decide

theorem witness_Recalculation :
    State.reset.par.precalcExt = false ∧ PrecalcCurrent State.reset ∧ (5 : Byte) ≠ 0 :=
  ⟨rfl, reset_precalcCurrent, by decide⟩

theorem witness_RecomputeConsistent :
    State.reset.reg.wf = true ∧ State.reset.par.precalcExt = false ∧ PrecalcCurrent State.reset ∧
    TablesCurrent State.reset := ⟨rfl, rfl, reset_precalcCurrent, .inl ⟨rfl, rfl⟩⟩

theorem witness_RebuiltTables : State.reset.par.precalcExt = false := by decide

theorem witness_HorizontalClamp : (0xF00 : BitVec 12) ≤ 0xFFF ∧ (0 : Nat) < 16 ∧ (15 : Nat) < 16 := by decide

/-- The screen with both hooks plugged in. -/
def hooked : State := { screen with par := { Config.defaultParams with precalcExt := true, addrWrapOverride := true } }

theorem witness_HooksConsulted :
    (hooked.par.precalcExt = true ∧ validIndex 1 0x1B = true ∧ validIndex 1 0x1C = true ∧ validIndex 5 3 = true ∧
      (regAt hooked.reg 1 0x29).getLsbD 7 = false ∧
      ¬((1 : Byte) = 1 ∧ (0x1C : Byte).toNat ≤ 0x1B ∧ (regAt guarded.reg 1 0x29).getLsbD 7 = true)) ∧
    TablesCurrent hooked ∧
    (1 ≤ (1 : Byte).toNat ∧ (5 : Byte).toNat ≤ 5 ∧ validIndex 5 4 = true) ∧
    (5 < (6 : Byte).toNat ∧ (1 : Byte) ≠ 0 ∧ validIndex 1 0x2A = false) ∧
    (hooked.par.addrWrapOverride = true ∧ hooked.P.crtc.addrMode ≠ 3) :=
  ⟨by decide, .inr ⟨rfl, rfl⟩, by decide, by decide, by decide⟩

/-- VRAM cut short by the limit (T14) and by the plane's size. -/
def limited : State := { State.reset with par := { Config.defaultParams with vramLimit := some 0x8000 } }
def small : State := { State.reset with par := { Config.defaultParams with planeSize := 0x8000 } }

theorem witness_VramWrite_stored :
    State.reset.vram.wf = true ∧ (3 : Byte).toNat ≤ 3 ∧
    (0x1FFFF : BitVec 32).toNat &&& State.reset.par.vramMask < State.reset.par.planeSize ∧
    (∀ lim, State.reset.par.vramLimit = some lim → (0x1FFFF : BitVec 32).toNat &&& State.reset.par.vramMask < lim) ∧
    (∀ lim, limited.par.vramLimit = some lim → (0x7FFF : BitVec 32).toNat &&& limited.par.vramMask < lim) := by
  refine ⟨by decide, by decide, by decide, ?_, ?_⟩
  · intro lim h
    cases h
  · intro lim h
    cases h
    decide

theorem witness_VramWrite_dropped :
    3 < (4 : Byte).toNat ∧ small.par.planeSize ≤ (0x8000 : BitVec 32).toNat &&& small.par.vramMask ∧
    (∃ lim, limited.par.vramLimit = some lim ∧ lim ≤ (0x8000 : BitVec 32).toNat &&& limited.par.vramMask) :=
  ⟨by decide, by decide, 0x8000, rfl, by decide⟩

theorem witness_PlaneAddressStrategies : State.reset.P.crtc.addrMode ≠ 3 := by decide

/-- The state after RESET with both plane strategies set, in an address mode. -/
def strategy (sel mode : BitVec 2) : State := { State.reset with P := { Precalc.reset with
  mem := { Precalc.reset.mem with paRead := sel, paWrite := sel }
  crtc := { Precalc.reset.crtc with addrMode := mode } } }

theorem witness_PadecUsesSelectedStrategy : (∀ sel : BitVec 2, (strategy sel 0).P.mem.paRead = sel) ∧
    (∀ sel : BitVec 2, (strategy sel 0).P.mem.paWrite = sel) ∧ (strategy 2 1).P.crtc.addrMode ≠ 3 ∧
    (strategy 3 3).P.mem.paRead ≠ 2 :=
  ⟨fun _ => rfl, fun _ => rfl, by decide, by decide⟩

theorem witness_AddressTranslation : State.reset.par.addrWrapOverride = false ∧
    (strategy 0 0).P.crtc.addrMode = 0 ∧ (strategy 0 1).P.crtc.addrMode = 1 ∧ (strategy 0 2).P.crtc.addrMode = 2 := by
  decide

theorem witness_Chain4MatchesDword : State.reset.par.memaddrBits = 16 ∧
    State.reset.par.addrWrapOverride = false ∧ (0xFFFF : BitVec 32).toNat < 0x10000 := by decide

theorem witness_LatchMicroOperations :
    { State.reset with S := { Runtime.reset with vretrace := true } }.S.vretrace = true ∧
    State.reset.S.vretrace = false := by decide

theorem witness_HorizontalTotal :
    (vtabAt (screenAt 48 2) (screenAt 48 2).S.y).getLsbD 13 = false ∧
    ((vtabAt (screenAt 48 1) (screenAt 48 1).S.y).getLsbD 13 = true ∧
      (screenAt 48 1).S.scanline + 1 ≠ (screenAt 48 1).P.crtc.topwindowStart) ∧
    (let s := { screenAt 48 0 with P := { screen.P with crtc := { screen.P.crtc with topwindowStart := 1 } } }
     (vtabAt s s.S.y).getLsbD 13 = true ∧ s.S.scanline + 1 = s.P.crtc.topwindowStart) := by decide

theorem witness_TicksComplete : SelectorsLegal screen.P = true := by decide

theorem witness_AdvanceComposes :
    ((0 : BitVec 32).toNat + (0xFFFFFFFF : BitVec 32).toNat < 2 ^ 32 ∧ exec (.advance 0) screen = .next screen) ∧
    (1 : BitVec 32).toNat + (2 : BitVec 32).toNat < 2 ^ 32 ∧ exec (.advance 1) State.reset =
      .next { State.reset with S := { Runtime.reset with x := 1 } } :=
  ⟨⟨by decide, rfl⟩, by decide, rfl⟩

/-- A tick of a state without reserved selectors has a next state. -/
theorem ticks_somewhere (s : State) (h : SelectorsLegal s.P = true) : ∃ t, exec .tick s = .next t := by
  obtain ⟨t, ht⟩ := tick_ok h
  exact ⟨t, outcome_eq_next.2 ht⟩

theorem witness_TickEventsAndLatches :
    (∃ t, exec .tick (screenAt 48 2) = .next t) ∧
    (totalHere (screenAt 24 3) = false ∧ ∃ t, exec .tick (screenAt 24 3) = .next t) :=
  ⟨ticks_somewhere _ (by decide), by decide, ticks_somewhere _ (by decide)⟩

/-- The position that the totals of a position lead to. -/
def afterTotals (s : State) : State := runTotals (signal s) (evaluate s)

theorem afterTotals_run (s : State) : TotalsRun s (afterTotals s) := totalsRun_iff.2 rfl

theorem witness_TickRowAndPosition_row :
    (totalHere screen = false ∧ ∃ u, exec (renderRow (resolved screen)) (resolved screen) = .next u) ∧
    (let s := screenAt 24 3
     totalHere s = false ∧ renderRow (resolved s) = .rNop ∧ ∃ u, exec .rNop (resolved s) = .next u) :=
  ⟨⟨by decide, _, rfl⟩, by decide, by decide, _, rfl⟩

theorem witness_TickRowAndPosition_totals :
    (let s := screenAt 48 0
     totalHere s = true ∧ TotalsRun s (afterTotals s) ∧ totalHere (afterTotals s) = false) ∧
    (let s := screenAt 48 5
     totalHere s = true ∧ TotalsRun s (afterTotals s) ∧ totalHere (afterTotals s) = true ∧
      TotalsRun (afterTotals s) (afterTotals (afterTotals s)) ∧ totalHere (afterTotals (afterTotals s)) = false) :=
  ⟨⟨by decide, afterTotals_run _, by decide⟩, by decide, afterTotals_run _, by decide, afterTotals_run _, by decide⟩

theorem witness_TickRowAndPosition_bound :
    let s := { screenAt 3 0 with vtab := some (Breakpoints.reset 12) }
    let u := afterTotals s
    let v := afterTotals u
    let w := afterTotals v
    (TotalsRun s u ∧ TotalsRun u v ∧ TotalsRun v w) ∧
      totalHere s = true ∧ totalHere u = true ∧ totalHere v = true ∧ totalHere w = true :=
  ⟨⟨afterTotals_run _, afterTotals_run _, afterTotals_run _⟩, by decide⟩

/-- R343: with no light-pen hook the pen event reaches nothing. -/
theorem test_delivered : look (exec .tick screen) (fun t => (deliveredEvents t,
      deliveredEvents { t with par := { t.par with lightPen := true } })) =
    some ([.pix 0 0 ⟨81, 174, 20, 255⟩], [.pix 0 0 ⟨81, 174, 20, 255⟩, .pen 0 true]) := by decide

theorem screen_builtFrom (x : BitVec 15) (y : BitVec 12) : BuiltFrom (screenAt x y) h1 v1 :=
  ⟨rfl, rfl, by decide, by decide⟩

theorem witness_TickRowAndPosition :
    BuiltFrom (screenAt 48 5) h1 v1 ∧ (screenAt 48 5).S.y.toNat < v1.total.toNat ∧
    SelectorsLegal (screenAt 48 5).P = true :=
  ⟨screen_builtFrom 48 5, by decide, by decide⟩

theorem witness_FrameReturnsToPosition :
    (BuiltFrom (screenAt 1 0) h1 v1 ∧ InTorus (screenAt 1 0) h1 v1 ∧ SelectorsLegal (screenAt 1 0).P = true ∧
      RetraceInStep (screenAt 1 0) v1) ∧
    (BuiltFrom (screenAt 48 5) h1 v1 ∧ InTorus (screenAt 48 5) h1 v1 ∧ RetraceInStep (screenAt 48 5) v1) ∧
    RetraceInStep { screenAt 1 3 with S := { (screenAt 1 3).S with vretrace := true } } v1 := by
  refine ⟨⟨screen_builtFrom 1 0, ⟨by decide, by decide, by decide⟩, by decide, ?_⟩,
    ⟨screen_builtFrom 48 5, ⟨by decide, by decide, by decide⟩, ?_⟩, ?_⟩ <;>
    exact ⟨by decide, by decide, by decide, by unfold RetraceRow; decide⟩

theorem witness_VerticalTotalZeroRetries :
    let s := { screenAt 3 0 with vtab := some (Breakpoints.reset 12) }
    s.vtab = some (Breakpoints.reset 12) ∧ (Breakpoints.reset 12).total = 0 ∧ s.S.y = 0 ∧
      (htabAt s s.S.x).getLsbD 0 = false := by decide

theorem witness_BlankSticky :
    (let s := screenAt 24 0
     (s.S.hblank = true ∨ (htabAt s s.S.x).getLsbD 3 = true) ∧ (htabAt s s.S.x).getLsbD 4 = false ∧
      ((htabAt s s.S.x).getLsbD 0 = true → (htabAt s 0).getLsbD 4 = false) ∧ ∃ t, exec .tick s = .next t) ∧
    (let s := { screenAt 48 0 with S := { (screenAt 48 0).S with hblank := true } }
     (s.S.hblank = true ∨ (htabAt s s.S.x).getLsbD 3 = true) ∧ (htabAt s s.S.x).getLsbD 4 = false ∧
      ((htabAt s s.S.x).getLsbD 0 = true → (htabAt s 0).getLsbD 4 = false) ∧ ∃ t, exec .tick s = .next t) :=
  ⟨⟨by decide, by decide, by decide, ticks_somewhere _ (by decide)⟩, by decide, by decide, by decide,
    ticks_somewhere _ (by decide)⟩

theorem witness_FrameLatch :
    let s := screenAt 48 2
    let s' := { s with
      reg := [(0x120, 4)]
      P := { s.P with crtc := { s.P.crtc with startAddress := 0x400 } } }
    SameButLatchSources s s' ∧ NoVTotalAhead s ∧ ∃ t, exec .tick s = .next t := by
  refine ⟨rfl, ?_, ticks_somewhere _ (by decide)⟩
  intro k hk
  have hk : k ≤ 3 := hk
  interval_cases k <;> decide

theorem witness_RetraceForcesNoop_any :
    (∃ t, exec .tick (screenAt 24 0) = .next t ∧ t.S.hretrace = true) ∧
    (∃ t, exec .tick (screenAt 48 2) = .next t ∧ t.S.vretrace = true) :=
  ⟨⟨_, rfl, by decide⟩, _, rfl, by decide⟩

theorem witness_RetraceForcesNoop :
    (totalBits (signal (screenAt 24 0)) = false ∧
      ((evaluate (screenAt 24 0)).S.hretrace = true ∨ (evaluate (screenAt 24 0)).S.vretrace = true)) ∧
    (totalBits (signal (screenAt 0 3)) = false ∧
      ((evaluate (screenAt 0 3)).S.hretrace = true ∨ (evaluate (screenAt 0 3)).S.vretrace = true)) := by decide

theorem witness_FrameOutputRows : coloured.pipe.rgba = some ⟨81, 174, 20, 255⟩ ∧ screen.pipe.rgba = none ∧
    ∀ addr pen, Event.frame ≠ .pen addr pen := ⟨by decide, by decide, by simp⟩

theorem witness_ActiveDisplayRow : let s := { screen with S := { Runtime.reset with divPhase := 3 } }
    let s' := { s with S := { s.S with lastEmit := some black } }
    SelectorsLegal screen.P = true ∧ s.S.divPhase ≠ 0 ∧ s.S.lastEmit = none ∧ s'.S.divPhase ≠ 0 ∧
      s'.S.lastEmit = some black ∧ screen.S.divPhase = 0 := by decide

theorem witness_StagesMakeActiveDisplay : SelectorsLegal screen.P = true ∧
    screen.P.clk.charWidth = (if screen.P.clk.char9 then .nine else .eight) ∧ screen.S.divPhase = 0 := by decide

/-- The state after RESET under other derived constants. -/
def under (p : Precalc) : State := { State.reset with P := p }

/-- Derived constants with other attribute constants. -/
def attrs (a : AttrCtl) : Precalc := { Precalc.reset with attr := a }

theorem witness_ReservedSelectorRefused_address :
    let s := strategy 2 3
    s.P.crtc.addrMode = 3 ∧ s.P.mem.paRead = 2 ∧ s.P.mem.paWrite = 2 ∧ s.P.attr.attrMode ≠ 3 ∧ ¬Held s 8 ∧
      ¬Held s 4 ∧ ¬Held s (dotsOf true) ∧ ¬Held s (dotsOf false) ∧
      ({ s with P := { s.P with attr := { s.P.attr with attrMode := 2 } } }).P.attr.attrMode = 2 := by decide

theorem witness_ReservedSelectorRefused_stages :
    (under (attrs { Precalc.reset.attr with attrMode := 3 })).P.attr.attrMode = 3 ∧
    (let s := under (attrs { Precalc.reset.attr with cursorBlinkSel := 3 })
     s.P.attr.attrMode ≠ 3 ∧ s.P.attr.cursorBlinkSel = 3 ∧
      Machine.translate s (unitAddr s (dotsOf true)) = .ok 0 ∧
      cursorShape s.P (textAfter s (dotsOf true) false 0)) ∧
    (let s := { under { Precalc.reset with
        gfx := ⟨true, 0⟩, attr := { Precalc.reset.attr with textBlinkSel := 3, blinkEnable := true } } with
        pipe := unit 0x80 false }
     s.pipe.ai = some ⟨0x80, true, .bits4, false⟩ ∧ s.P.attr.textBlinkSel = 3 ∧
      NeedsTextBlink s.P ⟨0x80, true, .bits4, false⟩) ∧
    4 < (under { Precalc.reset with dac := { Precalc.reset.dac with dacMode := 5 } }).P.dac.dacMode.toNat ∧
    (under { Precalc.reset with clk := { Precalc.reset.clk with pixelDiv := 3 } }).P.clk.pixelDiv = 3 ∧
    (let s := under { Precalc.reset with gfx := ⟨false, 3⟩ }
     s.P.clk.pixelDiv ≠ 3 ∧ s.S.divPhase = 0 ∧ s.P.gfx.textMode = false ∧ s.P.gfx.shiftMode = 3) :=
  ⟨by decide, ⟨by decide, by decide, rfl, by unfold cursorShape; decide⟩,
    ⟨by decide, by decide, by unfold NeedsTextBlink; decide⟩, by decide, by decide, by decide⟩

theorem witness_ReservedSelectorRefused_reload :
    (let s := { screen with P := { screen.P with attr := { screen.P.attr with attrMode := 3 } } }
     s.P.clk.pixelDiv ≠ 3 ∧ s.S.divPhase = 0 ∧ s.P.gfx.shiftMode ≠ 3 ∧
      s.P.clk.charWidth = (if s.P.clk.char9 then .nine else .eight) ∧
      runOps [decodeVariant s.P, attrVariant s.P] s = .error (.reservedSelector .attrMode)) ∧
    (let s := { screen with P := { screen.P with dac := { screen.P.dac with dacMode := 5 } } }
     s.P.clk.pixelDiv ≠ 3 ∧ s.S.divPhase = 0 ∧ s.P.gfx.shiftMode ≠ 3 ∧ 4 < s.P.dac.dacMode.toNat ∧
      ∃ u rs, runOps [decodeVariant s.P, attrVariant s.P] s = .ok (u, rs) ∧ u.pipe.val = some ⟨5, 1⟩) :=
  ⟨⟨by decide, by decide, by decide, by decide, rfl⟩, by decide, by decide, by decide, by decide, _, _, rfl, by decide⟩

theorem witness_ReservedSelectorRefused_tick :
    let s := { screen with P := { screen.P with clk := { screen.P.clk with pixelDiv := 3 } } }
    (totalHere s = false ∧
      exec (renderRow (resolved s)) (resolved s) = .refused (.reservedSelector .pixelDiv)) ∧
    exec (.advance 0) s = .next s ∧ exec .tick s = .refused (.reservedSelector .pixelDiv) ∧ (0 : BitVec 32) < 1 :=
  ⟨⟨by decide, rfl⟩, rfl, rfl, by decide⟩

/-- A state whose fetch registers hold the next unit's group, in the reserved address mode. -/
def holding : State := { strategy 0 3 with S := { Runtime.reset with fetchValid := true } }

theorem witness_GraphicsDecode :
    (screen.P.attr.attrMode ≠ 3 ∧ screen.P.attr.attrMode ≠ 2 ∧
      Machine.translate screen (unitAddr screen 8) = .ok 0) ∧
    (let s := { screen with P := { screen.P with attr := { screen.P.attr with attrMode := 2 } } }
     s.P.attr.attrMode = 2 ∧ Machine.translate s (unitAddr s 4) = .ok 0) ∧
    (Held holding 8 ∧ Held holding 4 ∧ holding.P.attr.attrMode ≠ 3 ∧ holding.P.attr.attrMode ≠ 2) ∧ 3 ≤ 3 :=
  ⟨⟨by decide, by decide, rfl⟩, ⟨by decide, rfl⟩, by decide, by decide⟩

theorem witness_TextDecode :
    (screen.P.attr.attrMode ≠ 3 ∧ screen.P.attr.cursorBlinkSel ≠ 3 ∧
      Machine.translate screen (unitAddr screen (dotsOf true)) = .ok 0 ∧
      Machine.translate screen (unitAddr screen (dotsOf false)) = .ok 0) ∧
    (let p := { Precalc.reset with
       attr := { Precalc.reset.attr with cursorBlinkSel := 3 }
       crtc := { Precalc.reset.crtc with cursorLocation := 1 } }
     let s := { holding with P := p }
     Held s (dotsOf true) ∧ ¬cursorShape p (textAfter s (dotsOf true) false 0)) :=
  ⟨⟨by decide, by decide, rfl, rfl⟩, by decide, by unfold cursorShape; decide⟩

theorem witness_AttributeVariants :
    screen.pipe.ai = none ∧
    (let s := { screen with pipe := unit 0x12 false }
     s.pipe.ai = some ⟨0x12, true, .bits4, false⟩ ∧ s.P.attr.textBlinkSel ≠ 3) ∧
    { screen with pipe := unit 0x12 true }.pipe.ai = some ⟨0x12, true, .bits4, true⟩ ∧
    ¬NeedsTextBlink (attrs { Precalc.reset.attr with textBlinkSel := 3 }) ⟨0x80, true, .bits4, true⟩ :=
  ⟨by decide, by decide, by decide, by unfold NeedsTextBlink; decide⟩

theorem witness_PaletteDepth : State.reset.pipe.val = none ∧ (staged (value 5 1)).pipe.val = some ⟨5, 1⟩ := by decide

theorem witness_DirectDepths :
    ((.m16, .dac16) ∈ directDepths ∧ State.reset.pipe.val = none ∧ (staged (value 0x34 1)).pipe.val = some ⟨0x34, 1⟩) ∧
    (State.reset.S.dacCount.toNat + 1 ≠ need .m15 ∧
      { State.reset with S := { Runtime.reset with dacCount := 3 } }.S.dacCount.toNat + 1 = need .m32) ∧
    (let s := staged (value ((0x12 : Byte) ++ (0x34 : Byte)) 2)
     s.pipe.val = some ⟨(0x12 : Byte) ++ (0x34 : Byte), 2⟩ ∧
      exec .dac16 { s with pipe := { s.pipe with val := some ⟨(0x34 : Byte).setWidth 16, 1⟩ } } =
        .next (runDepth .m16 { s with pipe := { s.pipe with val := some ⟨(0x34 : Byte).setWidth 16, 1⟩ } })) :=
  ⟨by decide, by decide, by decide, rfl⟩

theorem witness_LatchOrder : let s := { State.reset with S := { Runtime.reset with dacLatch := 0xFFFF } }
    DacMode.m16 ≠ .m8 ∧ s.S.dacCount = 0 ∧ s.S.dacLatch.toNat < 2 ^ (8 * need .m16) ∧
      ([0x34] : List Byte).length < need .m16 ∧ ([0x34, 0x12] : List Byte).length = need .m16 := by decide

theorem witness_ByteSwap : 4 ≤ 4 ∧ 3 < 4 ∧
    dacModeOf { Precalc.reset.dac with dacMode := 4 }.dacMode = .ok .m32 := ⟨by decide, by decide, rfl⟩

theorem witness_ColourStages : coloured.pipe.rgba = some ⟨81, 174, 20, 255⟩ ∧ State.reset.pipe.rgba = none := by
  decide

theorem witness_Luminance : coloured.pipe.rgba = some ⟨81, 174, 20, 255⟩ := by decide

theorem reset_registersMasked : RegistersMasked State.reset := by
  intro sec idx
  show (if validIndex sec idx = true then (0 : Byte) &&& _ = 0 else (0 : Byte) = 0)
  split
  · exact BitVec.zero_and
  · rfl

theorem reset_paletteInWidth : PaletteInWidth State.reset :=
  ⟨fun _ => BitVec.zero_and, by decide, by decide⟩

/-- A requested PENPOS, run. -/
theorem penpos_steps : step (asked [⟨0, .hop 0x0900000000010003⟩]) =
    .next { State.reset with S := { Runtime.reset with penX := 3, penY := 1 }, epoch := 1 } := rfl

theorem witness_StepKeepsStores : let s := asked [⟨0, .hop 0x0900000000010003⟩]
    Canonical s ∧ RegistersMasked s ∧ PaletteInWidth s ∧ ∃ t, step s = .next t :=
  ⟨⟨rfl, rfl, rfl⟩, reset_registersMasked, reset_paletteInWidth, _, penpos_steps⟩

theorem witness_StepKeepsPrecalc : let s := asked [⟨0, .hop 0x0900000000010003⟩]
    s.par.precalcExt = false ∧ s.reg.wf = true ∧ PrecalcCurrent s ∧ TablesCurrent s ∧ ∃ t, step s = .next t :=
  ⟨rfl, rfl, reset_precalcCurrent, .inl ⟨rfl, rfl⟩, _, penpos_steps⟩

theorem witness_StepKeepsCounters : let s := asked [⟨0, .hop 0x0900000000010003⟩]
    CountersInStep s ∧ ∃ t, step s = .next t :=
  ⟨⟨rfl, by decide, by decide, by decide⟩, _, penpos_steps⟩

theorem witness_OnlyOwnersWrite :
    (exec (.penpos 3 1) State.reset = .next { State.reset with S := { Runtime.reset with penX := 3, penY := 1 } } ∧
      writesRegisters (.penpos 3 1) = false ∧ writesPrecalc (.penpos 3 1) = false ∧
      stepsPalette (.rdreg 5 2) = false ∧ writesVram (.wrreg 5 3 1) = false ∧ Instr.penpos 3 1 ≠ .waitvbl) ∧
    (writesRuntime (.vread 0 0) = false ∧ exec (.vread 0 0) State.reset = .next { State.reset with result := .byte 0 }) ∧
    (writesPrecalc (.recalc 1 0 false) = true ∧ Instr.recalc 1 0 false ≠ .reset ∧
      ∃ t, exec (.recalc 1 0 false) State.reset = .next t) ∧
    (∃ t, exec .waitvbl State.reset = .next t) ∧
    writesPen .tick = false ∧ writesUnit .tick = false :=
  ⟨⟨rfl, by decide, by decide, by decide, by decide, by decide⟩, ⟨by decide, rfl⟩, ⟨by decide, by decide, _, rfl⟩,
    ⟨_, rfl⟩, by decide, by decide⟩

end Sys2Proof.Tests
end

section
/-! PROOF. The byte stores under every operation: canonical form, register masks, palette width (R40, R47, R57,
R142). -/

namespace Sys2Proof.Machine

/-- What the three stores and the access counters satisfy between any two steps. -/
def StoresSound (s : State) : Prop := Canonical s ∧ RegistersMasked s ∧ PaletteInWidth s

/-- It is a property of the parameters, the three stores and the access counters. -/
theorem StoresSound.congr {s t : State} (h : StoresSound s) (hpar : t.par = s.par) (hreg : t.reg = s.reg)
    (hpal : t.pal = s.pal) (hdacs : t.dacs = s.dacs) (hvram : t.vram = s.vram) : StoresSound t := by
  simpa only [StoresSound, Canonical, RegistersMasked, PaletteInWidth, hpar, hreg, hpal, hdacs, hvram] using h

/-- A light operation leaves everything it speaks of alone. -/
theorem StoresSound.of_light {s t : State} (h : StoresSound s) (hl : Light s t) : StoresSound t := by
  rw [hl.1]
  exact h.congr rfl rfl rfl rfl rfl

theorem StoresSound.takeTurn {s : State} (h : StoresSound s) (a : Nat) (rest : List Request) :
    StoresSound (s.takeTurn a rest) := h.congr rfl rfl rfl rfl rfl

/-! ### Single updates -/

/-- A value cut to a mask stays itself under the mask. -/
theorem masked_masked (v m : Byte) : v &&& m &&& m = v &&& m := by rw [BitVec.and_assoc, BitVec.and_self]

/-- A register is written within its mask (R142). -/
theorem RegistersMasked.write {s : State} (hwf : s.reg.wf = true) (h : RegistersMasked s) {sec idx : Byte}
    (hv : validIndex sec idx = true) (val : Byte) :
    RegistersMasked (s.setReg (s.reg.write (regKey sec idx) (val &&& definedMask s.par.dacBits sec idx))) := by
  intro sec' idx'
  simp only [State.setReg_reg, State.setReg_par, regAt_write _ _ _ _ _ _ hwf]
  by_cases hk : sec' = sec ∧ idx' = idx
  · obtain ⟨rfl, rfl⟩ := hk
    simp only [hv, and_self, if_true, masked_masked]
  · simpa only [hk, if_false] using h sec' idx'

/-- The palette after a DAC_DATA write is the old one, or has one component cut to `DAC_BITS` written (R163). -/
theorem dacWriteData_pal (val : Byte) (s : State) :
    (dacWriteData val s).pal = s.pal ∨
      ∃ k, (dacWriteData val s).pal = s.pal.write k (val &&& dacMaskOf s.par.dacBits) := by
  unfold dacWriteData
  dsimp only
  split_ifs
  · exact .inr ⟨_, rfl⟩
  · exact .inl rfl
  · exact .inr ⟨_, rfl⟩
  · exact .inl rfl

/-- A register store leaves the palette alone, unless it is a DAC_DATA write (R141, R163). -/
theorem storeRegister_pal (sec idx val : Byte) (s : State) :
    (storeRegister sec idx val s).pal = s.pal ∨
      ∃ k, (storeRegister sec idx val s).pal = s.pal.write k (val &&& dacMaskOf s.par.dacBits) := by
  unfold storeRegister
  split_ifs
  · exact .inl rfl
  · exact .inl rfl
  · exact dacWriteData_pal val s
  · exact .inl rfl

/-- A counter set to 0 is within 0, 1, 2. -/
theorem counter_zero : (0 : BitVec 2) ≠ 3 := by decide

/-- A counter that runs over 0, 1, 2 and is below 2 steps within 0, 1, 2 (R47). -/
theorem counter_step {c : BitVec 2} (h3 : c ≠ 3) (h2 : c ≠ 2) : c + 1 ≠ 3 := by
  revert c
  decide

/-- A register store keeps the access counters within 0, 1, 2 (R47, R161 to R163). -/
theorem storeRegister_counters (sec idx val : Byte) {s : State} (hw : s.dacs.wsub ≠ 3) (hr : s.dacs.rsub ≠ 3) :
    (storeRegister sec idx val s).dacs.wsub ≠ 3 ∧ (storeRegister sec idx val s).dacs.rsub ≠ 3 := by
  unfold storeRegister
  split_ifs
  · exact ⟨hw, counter_zero⟩
  · exact ⟨counter_zero, hr⟩
  · rw [dacWriteData_eq val s hw]
    dsimp only
    split_ifs with h2
    · exact ⟨counter_zero, hr⟩
    · exact ⟨counter_step hw h2, hr⟩
  · exact ⟨hw, hr⟩

/-! ### The operations that write a store -/

/-- The store of a valid register keeps the stores sound (R141, R142, R163). -/
theorem StoresSound.storeRegister {s : State} (h : StoresSound s) {sec idx : Byte} (hv : validIndex sec idx = true)
    (val : Byte) : StoresSound (storeRegister sec idx val s) := by
  obtain ⟨⟨hreg, hpal, hvram⟩, hmask, hwidth, hw, hr⟩ := h
  obtain ⟨reg, pal, dacs, e⟩ := storeRegister_frame sec idx val s
  have ereg := storeRegister_reg sec idx val s hv
  have epal := storeRegister_pal sec idx val s
  have ecnt := storeRegister_counters sec idx val hw hr
  rw [e] at ereg epal ecnt ⊢
  have hpal' : pal.wf = true ∧ ∀ k, pal.read k &&& dacMaskOf s.par.dacBits = pal.read k := by
    obtain rfl | ⟨k, rfl⟩ := epal
    · exact ⟨hpal, hwidth⟩
    · refine ⟨Memory.wf_write _ _ _ hpal, fun k' => ?_⟩
      rw [Memory.read_write _ _ _ _ hpal]
      split_ifs
      · exact masked_masked _ _
      · exact hwidth k'
  have hreg' : reg.wf = true := by
    rw [show reg = _ from ereg]
    exact Memory.wf_write _ _ _ hreg
  refine ⟨⟨hreg', hpal'.1, hvram⟩, ?_, hpal'.2, ecnt⟩
  have := RegistersMasked.write hreg hmask hv val
  rw [← ereg] at this
  exact this

/-- A register write keeps the stores sound, applied or not (R141). -/
theorem StoresSound.writeRegister {s : State} (h : StoresSound s) (sec idx val : Byte) :
    StoresSound (writeRegister sec idx val s) := by
  unfold Machine.writeRegister
  split_ifs with ha
  · have hv : validIndex sec idx = true := (Bool.and_eq_true_iff.1 ha).1
    exact (h.storeRegister hv val).congr (by simp) (by simp) (by simp) (by simp) (by simp)
  · exact h.congr rfl rfl rfl rfl rfl

/-- A recompute writes no store (R172). -/
theorem StoresSound.recompute {s : State} (h : StoresSound s) (tag : Tag) : StoresSound (recompute tag s) :=
  h.congr (by simp) (by simp) (by simp) (by simp) (by simp)

/-- A read of DAC_DATA keeps the read counter within 0, 1, 2 (R47, R164). -/
theorem StoresSound.dacReadData {s : State} (h : StoresSound s) : StoresSound (dacReadData s) := by
  obtain ⟨hc, hm, hwidth, hw, hr⟩ := h
  unfold Machine.dacReadData
  dsimp only
  split_ifs with h2
  · exact ⟨hc, hm, hwidth, hw, counter_zero⟩
  · exact ⟨hc, hm, hwidth, hw, counter_step hr h2⟩

/-- A register read keeps the stores sound (R143). -/
theorem StoresSound.readRegister {s : State} (h : StoresSound s) (sec idx : Byte) :
    StoresSound (readRegister sec idx s) := by
  have hres (r : Result) : StoresSound (s.setResult r) := h.congr rfl rfl rfl rfl rfl
  unfold Machine.readRegister
  split_ifs
  · exact hres _
  · exact hres _
  · exact h.dacReadData
  · exact hres _
  · exact hres _

/-- A plane write keeps the stores sound (R85). -/
theorem StoresSound.planeWrite {s : State} (h : StoresSound s) (p off : Nat) (v : Byte) :
    StoresSound (planeWrite p off v s) := by
  obtain ⟨⟨hreg, hpal, hvram⟩, hm, hw⟩ := h
  unfold Machine.planeWrite
  cases effectiveOffset s.par off with
  | none => exact ⟨⟨hreg, hpal, hvram⟩, hm, hw⟩
  | some e =>
    have hvram' : (s.vram.write (planeKey p e) v).wf = true := Memory.wf_write _ _ _ hvram
    dsimp only
    split_ifs <;> exact ⟨⟨hreg, hpal, hvram'⟩, hm, hw⟩

/-- RESET empties the register file and the palette and zeroes the counters (R380). -/
theorem StoresSound.resetDevice {s : State} (h : StoresSound s) : StoresSound (resetDevice s) := by
  refine ⟨⟨rfl, rfl, h.1.2.2⟩, fun sec idx => ?_, fun k => BitVec.zero_and, counter_zero, counter_zero⟩
  show (if validIndex sec idx = true then (0 : Byte) &&& _ = 0 else (0 : Byte) = 0)
  split_ifs
  · exact BitVec.zero_and
  · rfl

/-- A WAITVBL step writes no store (R150). -/
theorem StoresSound.waitvbl {s : State} (h : StoresSound s) :
    StoresSound (if waiting s then pollWait s else beginWait s) := by
  unfold pollWait beginWait
  split_ifs <;> exact h.congr rfl rfl rfl rfl rfl

/-- Every operation keeps the stores sound. -/
theorem StoresSound.exec {s t : State} (hs : StoresSound s) (i : Instr) (h : exec i s = .next t) :
    StoresSound t := by
  by_cases hi : heavy i = false
  · exact hs.of_light (light_exec i hi s t h)
  cases i
  case reset => cases h; exact hs.resetDevice
  case wrreg => cases h; exact hs.writeRegister _ _ _
  case dacmask => cases h; exact hs.writeRegister _ _ _
  case dacridx => cases h; exact hs.writeRegister _ _ _
  case dacwidx => cases h; exact hs.writeRegister _ _ _
  case dacwdata => cases h; exact hs.writeRegister _ _ _
  case rdreg => cases h; exact hs.readRegister _ _
  case dacrdata => cases h; exact hs.readRegister _ _
  case recalc sec idx whole =>
    cases h
    cases recalcTag sec idx whole with
    | none => exact hs
    | some tag => exact hs.recompute tag
  case waitvbl => cases h; exact hs.waitvbl
  case vwrite =>
    cases h
    split_ifs
    · exact hs.planeWrite _ _ _
    · exact hs
  all_goals exact absurd rfl hi

/-- Settles O56: a step changes nothing, or takes a turn, which writes no store, and runs at most one operation. -/
theorem stepKeepsStores : Obligations.StepKeepsStores := by
  unfold Obligations.StepKeepsStores
  intro s t hc hm hw h
  have hs : StoresSound s := ⟨hc, hm, hw⟩
  obtain rfl | ⟨a, rest, rfl | ⟨i, hi⟩⟩ := step_cases h
  · exact hs
  · exact hs.takeTurn a rest
  · exact (hs.takeTurn a rest).exec i hi

end Sys2Proof.Machine
end

section
/-! PROOF. Which operations write which part of the state (R20, R70, R92, R150, R155, R182). -/

namespace Sys2Proof.Machine

/-! ### The pen fields -/

/-- The pen fields of two sets of runtime registers agree (R155). -/
def SamePen (r r' : Runtime) : Prop := r'.penX = r.penX ∧ r'.penY = r.penY

theorem SamePen.refl (r : Runtime) : SamePen r r := ⟨rfl, rfl⟩

theorem SamePen.trans {r r' r'' : Runtime} (h : SamePen r r') (h' : SamePen r' r'') : SamePen r r'' :=
  ⟨h'.1.trans h.1, h'.2.trans h.2⟩

theorem SamePosition.samePen {r r' : Runtime} (h : SamePosition r r') : SamePen r r' := by
  unfold SamePosition at h
  unfold SamePen
  tauto

theorem StageStep.samePen {s t : State} (h : StageStep s t) : SamePen s.S t.S := h.samePosition.samePen

theorem evaluate_samePen (s : State) : SamePen s.S (evaluate s).S := by
  rw [evaluate_eq]
  exact SamePen.refl _

theorem hTotal_samePen (s : State) : SamePen s.S (hTotal s).S := by
  rw [(hTotal_row s).1]
  exact SamePen.refl _

theorem runTotals_samePen (sig : SigWord) (s : State) : SamePen s.S (runTotals sig s).S := by
  rcases runTotals_cases sig s with ⟨-, -, e⟩ | ⟨-, -, e⟩ | ⟨-, -, e⟩ | ⟨-, -, e⟩ <;> rw [e]
  · exact SamePen.refl _
  · exact hTotal_samePen s
  · exact SamePen.refl _
  · exact hTotal_samePen s

/-- A tick leaves the pen fields alone (R20). -/
theorem tick_samePen {s t : State} (h : tick s = .ok t) : SamePen s.S t.S := by
  obtain ⟨u, hu, rfl⟩ := tick_cases h
  have hloop : SamePen s.S (signalLoop Config.retryBound s).2.2.S :=
    signalLoop_keeps (p := fun u => SamePen s.S u.S) (fun u hu => hu.trans (evaluate_samePen u))
      (fun sig u hu => hu.trans (runTotals_samePen sig u)) (fun _ hu => hu) _ s (SamePen.refl _)
  exact hloop.trans (dispatch_samePosition hu).samePen

theorem ticks_samePen (n : Nat) {s t : State} (h : ticks n s = .ok t) : SamePen s.S t.S := by
  induction n generalizing s with
  | zero =>
    cases h
    exact SamePen.refl _
  | succ n ih =>
    obtain ⟨u, hu, h⟩ := ticks_succ.1 h
    exact (tick_samePen hu).trans (ih h)

/-! ### The runtime registers under a recompute -/

/-- Only the three part-filled latches differ (R182). -/
def LatchesOnly (r r' : Runtime) : Prop :=
  r' = { r with dacCount := r'.dacCount, dacLatch := r'.dacLatch, attrLatch := r'.attrLatch }

theorem LatchesOnly.samePen {r r' : Runtime} (h : LatchesOnly r r') : SamePen r r' := by
  rw [h]
  exact SamePen.refl _

/-- A recompute, hook or not, clears the three latches at most (R172, R182). -/
theorem recompute_latchesOnly (tag : Tag) (s : State) : LatchesOnly s.S (recompute tag s).S := by
  simp only [recompute, runPrecalcExt, clearLatches, rebuildTimingTables]
  split_ifs <;> rfl

/-- A register store leaves the runtime registers alone (R141). -/
theorem storeRegister_S (sec idx val : Byte) (s : State) : (storeRegister sec idx val s).S = s.S := by
  obtain ⟨reg, pal, dacs, e⟩ := storeRegister_frame sec idx val s
  rw [e]

theorem writeRegister_latchesOnly (sec idx val : Byte) (s : State) :
    LatchesOnly s.S (writeRegister sec idx val s).S := by
  unfold writeRegister
  split_ifs
  · have h := recompute_latchesOnly (.register sec idx) (storeRegister sec idx val s)
    rw [storeRegister_S] at h
    exact h
  · rfl

/-- RECALC clears the three latches at most (R145, R182). -/
theorem execRecalc_latchesOnly {sec idx : Byte} {whole : Bool} {s t : State}
    (h : execRecalc sec idx whole s = .next t) : LatchesOnly s.S t.S := by
  cases h
  cases recalcTag sec idx whole with
  | none => rfl
  | some tag => exact recompute_latchesOnly tag s

/-! ### The runtime registers, the pen fields and the decoded unit -/

/-- The runtime registers, the pen fields and the decoded unit change only under an operation that owns them. -/
def OwnersOnly (i : Instr) (s t : State) : Prop :=
  (writesRuntime i = false → t.S = s.S) ∧ (writesPen i = false → SamePen s.S t.S) ∧
    (writesUnit i = false → t.pipe.ai = s.pipe.ai)

namespace OwnersOnly

variable {i : Instr} {s t u : State}

/-- An operation that touches neither the runtime registers nor the decoded unit. -/
theorem of_same (hS : t.S = s.S) (hai : t.pipe.ai = s.pipe.ai) : OwnersOnly i s t :=
  ⟨fun _ => hS, fun _ => hS ▸ SamePen.refl _, fun _ => hai⟩

/-- An operation that owns the runtime registers and touches neither the pen nor the decoded unit. -/
theorem of_runtime (hi : writesRuntime i = true) (hpen : SamePen s.S t.S) (hpipe : t.pipe = s.pipe) :
    OwnersOnly i s t :=
  ⟨fun h => absurd (hi.symm.trans h) (by decide), fun _ => hpen, fun _ => by rw [hpipe]⟩

/-- A stage whose answer goes into a stage register other than the decoded unit. -/
theorem of_stage (hi : writesRuntime i = true) (h : StageStep s u) {p : Pipe} (hp : p.ai = u.pipe.ai) :
    OwnersOnly i s (u.setPipe p) :=
  ⟨fun h => absurd (hi.symm.trans h) (by decide), fun _ => h.samePen, fun _ => hp.trans (by rw [h.pipe])⟩

/-- A decode variant, which owns the runtime registers and the decoded unit. -/
theorem of_decode (hi : writesRuntime i = true) (hu : writesUnit i = true) {r : Res (AttrInfo × State)}
    (hr : ∀ u, r = .ok u → StageStep (countUnit s) u.2)
    (h : outcome (do
      let u ← r
      pure (putUnit u)) = .next t) : OwnersOnly i s t := by
  obtain ⟨u, hd, h⟩ := bind_ok (outcome_eq_next.1 h)
  cases h
  exact ⟨fun h => absurd (hi.symm.trans h) (by decide), fun _ => (hr u hd).samePen,
    fun h => absurd (hu.symm.trans h) (by decide)⟩

/-- An operation that returns an answer of the plane-address stage. -/
theorem of_answer {r : Res (BitVec 4 × BitVec 32)}
    (h : outcome (do
      let a ← r
      pure (returnPlaneAddr a s)) = .next t) : OwnersOnly i s t := by
  obtain ⟨a, -, h⟩ := bind_ok (outcome_eq_next.1 h)
  cases h
  exact of_same rfl rfl

/-- An ATTR variant that owns the runtime registers (it may hold a first half, R295, R297). -/
theorem of_onUnit (hi : writesRuntime i = true) {f : AttrInfo → State → Res (Option AttrValue × State)}
    (hf : ∀ ai r, f ai s = .ok r → StageStep s r.2) (h : onUnit f s = .next t) : OwnersOnly i s t := by
  unfold onUnit at h
  split at h
  · cases h
    exact of_same rfl rfl
  · obtain ⟨r, hr, h⟩ := bind_ok (outcome_eq_next.1 h)
    cases h
    exact of_stage hi (hf _ _ hr) rfl

/-- A depth variant (R311). -/
theorem of_runDepth (hi : writesRuntime i = true) (mode : DacMode) : OwnersOnly i s (runDepth mode s) := by
  unfold runDepth
  cases s.pipe.val with
  | none => exact of_same rfl rfl
  | some v => exact of_stage hi (dacLatchIn_stage mode v s) rfl

theorem of_writeRegister (hi : writesRuntime i = true) (sec idx val : Byte) :
    OwnersOnly i s (writeRegister sec idx val s) := by
  refine of_runtime hi (writeRegister_latchesOnly sec idx val s).samePen ?_
  obtain ⟨reg, pal, dacs, P, h, v, r, res, e⟩ := writeRegister_frame sec idx val s
  rw [e]

theorem of_readRegister (sec idx : Byte) : OwnersOnly i s (readRegister sec idx s) := by
  obtain ⟨dacs, res, e⟩ := readRegister_frame sec idx s
  rw [e]
  exact of_same rfl rfl

end OwnersOnly

/-- ATTR.4 looks up and changes no runtime register (R294). -/
theorem attr4Of_state {ai : AttrInfo} {s : State} {r : Option AttrValue × State} (h : attr4Of ai s = .ok r) :
    r.2 = s := by
  obtain ⟨v, -, h⟩ := bind_ok h
  cases h
  rfl

/-- Every operation leaves the runtime registers, the pen and the decoded unit to their owners. -/
theorem exec_ownersOnly (i : Instr) (s t : State) (h : exec i s = .next t) : OwnersOnly i s t := by
  have ok {r : Res State} (h : outcome r = .next t) : r = .ok t := outcome_eq_next.1 h
  cases i
  case reset => cases h; exact ⟨nofun, nofun, nofun⟩
  case wrreg => cases h; exact .of_writeRegister rfl _ _ _
  case dacmask => cases h; exact .of_writeRegister rfl _ _ _
  case dacridx => cases h; exact .of_writeRegister rfl _ _ _
  case dacwidx => cases h; exact .of_writeRegister rfl _ _ _
  case dacwdata => cases h; exact .of_writeRegister rfl _ _ _
  case rdreg => cases h; exact .of_readRegister _ _
  case dacrdata => cases h; exact .of_readRegister _ _
  case recalc sec idx whole =>
    refine .of_runtime rfl (execRecalc_latchesOnly h).samePen ?_
    cases h
    cases recalcTag sec idx whole with
    | none => rfl
    | some tag => exact recompute_pipe tag s
  case advance n => exact .of_runtime rfl (ticks_samePen _ (ok h)) (ticks_runtimeOnly _ (ok h)).pipe
  case tick => exact .of_runtime rfl (tick_samePen (ok h)) (tick_runtimeOnly (ok h)).pipe
  case rActive =>
    exact .of_runtime rfl (activeDisplay_samePosition (ok h)).samePen (activeDisplay_runtimeOnly (ok h)).pipe
  case waitvbl =>
    cases h
    unfold pollWait beginWait
    split_ifs <;> exact .of_runtime rfl (SamePen.refl _) rfl
  case vwrite plane val off =>
    cases h
    split_ifs
    · obtain ⟨vram, new, e⟩ := planeWrite_frame plane.toNat off.toNat val s
      rw [e]
      exact .of_same rfl rfl
    · exact .of_same rfl rfl
  case penpos => cases h; exact ⟨nofun, nofun, fun _ => rfl⟩
  case padec => exact .of_answer h
  case paOddevenR => exact .of_answer h
  case paOddevenW => exact .of_answer h
  case decText => exact .of_decode rfl rfl (fun u hu => decodeText_stage hu) h
  case decPlanar => exact .of_decode rfl rfl (fun u hu => decodeGraphics_stage hu) h
  case decPacked => exact .of_decode rfl rfl (fun u hu => decodeGraphics_stage hu) h
  case decShift256 => exact .of_decode rfl rfl (fun u hu => decodeGraphics_stage hu) h
  case attr4 =>
    simp only [exec, execAttr4, onUnit] at h
    split at h
    · cases h
      exact .of_same rfl rfl
    · obtain ⟨r, hr, h⟩ := bind_ok (ok h)
      cases h
      have e : r.2 = s := attr4Of_state hr
      exact .of_same (congrArg State.S e :) (congrArg (·.pipe.ai) e :)
  case attr8 => exact .of_onUnit rfl (fun ai r hr => attr8Of_stage hr) h
  case attr16 =>
    exact .of_onUnit (f := fun ai s => .ok (attr16Of ai s)) rfl (fun ai r hr => by cases hr; exact attr16Of_stage ai s) h
  case dac8 => cases h; exact .of_runDepth rfl _
  case dac15 => cases h; exact .of_runDepth rfl _
  case dac16 => cases h; exact .of_runDepth rfl _
  case dac24 => cases h; exact .of_runDepth rfl _
  case dac32 => cases h; exact .of_runDepth rfl _
  case dacSwap =>
    obtain ⟨r, -, h⟩ := bind_ok (ok h)
    cases h
    exact .of_same rfl rfl
  case lumWeighted => cases h; unfold returnLum; split <;> exact .of_same rfl rfl
  case lumUnweighted => cases h; unfold returnLum; split <;> exact .of_same rfl rfl
  case retrVs =>
    cases h
    unfold vRetraceStart
    split_ifs <;> exact .of_runtime rfl (SamePen.refl _) rfl
  case htotal => cases h; exact .of_runtime rfl (hTotal_samePen s) (hTotal_runtimeOnly s).pipe
  case rOverscanH => cases h; exact .of_runtime rfl (frameOutput_samePosition _ s).samePen (overscan_runtimeOnly s).pipe
  case rOverscanV => cases h; exact .of_runtime rfl (frameOutput_samePosition _ s).samePen (overscan_runtimeOnly s).pipe
  case outPixel =>
    simp only [exec, execOutPixel] at h
    cases h
    split
    · exact .of_same rfl rfl
    · exact .of_runtime rfl (frameOutput_samePosition _ s).samePen (frameOutput_runtimeOnly _ s).pipe
  case blankHs | blankHe | blankVs | blankVe | retrHs | retrHe | retrVe | vtotal | divFull | divHalf | divQuarter =>
    cases h
    exact .of_runtime rfl (SamePen.refl _) rfl
  all_goals
    cases h
    exact .of_same rfl rfl

/-! ### The rest of the state -/

/-- What no operation writes stands as it was, and the register file, the palette, `P`, the tables, the counters, VRAM
and the waiting callers change only under an operation that owns them. -/
def GroupsKept (i : Instr) (s t : State) : Prop :=
  (t.par = s.par ∧ t.queue = s.queue ∧ t.actor = s.actor ∧ t.epoch = s.epoch ∧
    ∃ new, t.events = new ++ s.events) ∧
  (writesRegisters i = false → t.reg = s.reg ∧ t.pal = s.pal) ∧
  (writesPrecalc i = false → t.P = s.P ∧ t.htab = s.htab ∧ t.vtab = s.vtab) ∧
  (stepsPalette i = false → t.dacs = s.dacs) ∧
  (writesVram i = false → t.vram = s.vram) ∧
  (i ≠ .waitvbl → t.waiters = s.waiters)

namespace GroupsKept

variable {i : Instr} {s t : State}

/-- A light operation keeps every group. -/
theorem of_light (h : Light s t) : GroupsKept i s t := by
  obtain ⟨e, hev⟩ := h
  refine ⟨⟨?_, ?_, ?_, ?_, hev⟩, fun _ => ⟨?_, ?_⟩, fun _ => ⟨?_, ?_, ?_⟩, fun _ => ?_, fun _ => ?_, fun _ => ?_⟩ <;>
    rw [e]

/-- A register write owns the registers, `P` and the counters (R141). -/
theorem of_writeRegister (hr : writesRegisters i = true) (hp : writesPrecalc i = true) (hd : stepsPalette i = true)
    (sec idx val : Byte) : GroupsKept i s (writeRegister sec idx val s) := by
  obtain ⟨reg, pal, dacs, P, h, v, r, res, e⟩ := writeRegister_frame sec idx val s
  rw [e]
  exact ⟨⟨rfl, rfl, rfl, rfl, [], rfl⟩, by simp [hr], by simp [hp], by simp [hd], fun _ => rfl, fun _ => rfl⟩

/-- A read of DAC_DATA owns the counters (R164). -/
theorem of_readRegister (hd : stepsPalette i = true) (sec idx : Byte) : GroupsKept i s (readRegister sec idx s) := by
  obtain ⟨dacs, res, e⟩ := readRegister_frame sec idx s
  rw [e]
  exact ⟨⟨rfl, rfl, rfl, rfl, [], rfl⟩, fun _ => ⟨rfl, rfl⟩, fun _ => ⟨rfl, rfl, rfl⟩, by simp [hd], fun _ => rfl,
    fun _ => rfl⟩

/-- A recompute owns `P` and the tables (R172). -/
theorem of_recompute (hp : writesPrecalc i = true) (tag : Tag) : GroupsKept i s (recompute tag s) := by
  obtain ⟨P, h, v, r, e⟩ := recompute_frame tag s
  rw [e]
  exact ⟨⟨rfl, rfl, rfl, rfl, [], rfl⟩, fun _ => ⟨rfl, rfl⟩, by simp [hp], fun _ => rfl, fun _ => rfl, fun _ => rfl⟩

/-- A plane write owns VRAM (R152). -/
theorem of_planeWrite (hv : writesVram i = true) (p off : Nat) (v : Byte) : GroupsKept i s (planeWrite p off v s) := by
  obtain ⟨vram, new, e⟩ := planeWrite_frame p off v s
  rw [e]
  exact ⟨⟨rfl, rfl, rfl, rfl, new, rfl⟩, fun _ => ⟨rfl, rfl⟩, fun _ => ⟨rfl, rfl, rfl⟩, fun _ => rfl, by simp [hv],
    fun _ => rfl⟩

end GroupsKept

/-- Every operation keeps the groups it does not own. -/
theorem exec_groupsKept (i : Instr) (s t : State) (h : exec i s = .next t) : GroupsKept i s t := by
  by_cases hi : heavy i = false
  · exact .of_light (light_exec i hi s t h)
  cases i
  case reset => cases h; exact ⟨⟨rfl, rfl, rfl, rfl, [], rfl⟩, nofun, nofun, nofun, fun _ => rfl, fun _ => rfl⟩
  case wrreg => cases h; exact .of_writeRegister rfl rfl rfl _ _ _
  case dacmask => cases h; exact .of_writeRegister rfl rfl rfl _ _ _
  case dacridx => cases h; exact .of_writeRegister rfl rfl rfl _ _ _
  case dacwidx => cases h; exact .of_writeRegister rfl rfl rfl _ _ _
  case dacwdata => cases h; exact .of_writeRegister rfl rfl rfl _ _ _
  case rdreg sec idx =>
    have hd : stepsPalette (.rdreg sec idx) = true := Bool.eq_true_of_not_eq_false hi
    cases h
    exact .of_readRegister hd _ _
  case dacrdata => cases h; exact .of_readRegister rfl _ _
  case recalc sec idx whole =>
    cases h
    cases recalcTag sec idx whole with
    | none => exact .of_light (Light.refl s)
    | some tag => exact .of_recompute rfl tag
  case waitvbl =>
    cases h
    unfold pollWait beginWait
    split_ifs <;>
      exact ⟨⟨rfl, rfl, rfl, rfl, [], rfl⟩, fun _ => ⟨rfl, rfl⟩, fun _ => ⟨rfl, rfl, rfl⟩, fun _ => rfl, fun _ => rfl,
        fun hn => absurd rfl hn⟩
  case vwrite plane val off =>
    cases h
    split_ifs
    · exact .of_planeWrite rfl _ _ _
    · exact .of_light (Light.refl s)
  all_goals exact absurd rfl hi

/-- Of the runtime registers, register writes and RECALC clear the three latches at most (R182). -/
theorem exec_latchesOnly {i : Instr} (hi : writesPrecalc i = true) (hne : i ≠ .reset) {s t : State}
    (h : exec i s = .next t) : LatchesOnly s.S t.S := by
  cases i
  case reset => exact absurd rfl hne
  case wrreg => cases h; exact writeRegister_latchesOnly _ _ _ s
  case dacmask => cases h; exact writeRegister_latchesOnly _ _ _ s
  case dacridx => cases h; exact writeRegister_latchesOnly _ _ _ s
  case dacwidx => cases h; exact writeRegister_latchesOnly _ _ _ s
  case dacwdata => cases h; exact writeRegister_latchesOnly _ _ _ s
  case recalc => exact execRecalc_latchesOnly h
  all_goals cases hi

/-- WAITVBL writes the vertical-blank flag at most (R150). -/
theorem exec_waitvbl_S {s t : State} (h : exec .waitvbl s = .next t) :
    t.S = { s.S with vblankFlag := t.S.vblankFlag } := by
  cases h
  unfold pollWait beginWait
  split_ifs <;> rfl

/-- PENPOS writes the pen fields only (R155). -/
theorem exec_penpos_S {x : BitVec 15} {y : BitVec 12} {s t : State} (h : exec (.penpos x y) s = .next t) :
    t.S = { s.S with penX := x, penY := y } := by
  cases h
  rfl

/-- Settles O60: the groups, the latches a recompute clears, WAITVBL's flag, PENPOS's fields, and the owners of the
runtime registers, the pen and the decoded unit. -/
theorem onlyOwnersWrite : Obligations.OnlyOwnersWrite := by
  unfold Obligations.OnlyOwnersWrite
  intro i s t h
  obtain ⟨hfixed, hreg, hprecalc, hdacs, hvram, hwaiters⟩ := exec_groupsKept i s t h
  obtain ⟨hruntime, hpen, hunit⟩ := exec_ownersOnly i s t h
  refine ⟨hfixed, hreg, hprecalc, hdacs, hvram, hwaiters, hruntime, fun hp hne => exec_latchesOnly hp hne h, ?_, ?_,
    hpen, hunit⟩
  · rintro rfl
    exact exec_waitvbl_S h
  · rintro x y rfl
    exact exec_penpos_S h

end Sys2Proof.Machine
end

section
/-! PROOF. The guard of the timing registers (R42) and `Derive` field by field (R41 to R51). -/

namespace Sys2Proof.Machine

/-! ### Protected writes -/

/-- A CRTC timing register exists (R40, R41). -/
theorem validIndex_timing {idx : Byte} (h : idx.toNat ≤ 0x1B) : validIndex secCrtc idx = true := by
  simp only [validIndex, if_true, decide_eq_true_eq]
  omega

/-- A write to a timing register applies exactly while the guard is clear (R42). -/
theorem writeApplies_timing {idx : Byte} (h : idx.toNat ≤ 0x1B) (s : State) :
    writeApplies secCrtc idx s = !(regAt s.reg 1 0x29).getLsbD 7 := by
  simp only [writeApplies, isProtected, timingGuard, validIndex_timing h, h, beq_self_eq_true, decide_true, Bool.true_and]
  rfl

/-- The defined bits of the timing registers: 8 in the low bytes, 4 in the high ones (R142). -/
theorem definedMask_timing (bits : DacBits) {idx : Byte} (h : idx.toNat ≤ 0x1B) :
    definedMask bits secCrtc idx = if idx.getLsbD 0 then 0x0F else 0xFF := by
  simp only [definedMask, h, if_true]

/-- CRTC_MODE is not protected (R42). -/
theorem writeApplies_crtcMode (s : State) : writeApplies secCrtc 0x29 s = true := rfl

/-- A write that does not apply changes nothing (R141). -/
theorem execWrreg_ignored {sec idx : Byte} {s : State} (h : writeApplies sec idx s = false) (val : Byte) :
    exec (.wrreg sec idx val) s = .next { s with result := .applied false } := by
  simp only [exec, execWrreg, writeRegister, h]
  rfl

/-- A write that applies stores the defined bits (R141, R142). -/
theorem execWrreg_applied {sec idx : Byte} {s : State} (hwf : s.reg.wf = true) (h : writeApplies sec idx s = true)
    (val : Byte) : ∃ t, exec (.wrreg sec idx val) s = .next t ∧ t.result = .applied true ∧
      regAt t.reg sec idx = val &&& definedMask s.par.dacBits sec idx := by
  have hv : validIndex sec idx = true := (Bool.and_eq_true_iff.1 h).1
  refine ⟨writeRegister sec idx val s, rfl, ?_⟩
  simp only [writeRegister, h, if_true, State.setResult_result, State.setResult_reg, recompute_reg,
    storeRegister_reg sec idx val s hv, regAt_write _ _ _ _ _ _ hwf, and_self]

/-- Settles O10: the guard decides whether a write applies, and a write that applies stores its defined bits. -/
theorem timingRegistersProtected : Obligations.TimingRegistersProtected := by
  unfold Obligations.TimingRegistersProtected
  intro s hwf
  refine ⟨fun idx val hi hg => ?_, fun idx val hi hg => ?_, fun val => ?_⟩
  · have ha : writeApplies secCrtc idx s = false := by rw [writeApplies_timing hi, hg]; rfl
    exact execWrreg_ignored ha val
  · have ha : writeApplies secCrtc idx s = true := by rw [writeApplies_timing hi, hg]; rfl
    have h := execWrreg_applied hwf ha val
    rwa [definedMask_timing _ hi] at h
  · exact execWrreg_applied hwf (writeApplies_crtcMode s) val

/-! ### Derive -/

/-- A horizontal position does not fall where the register value rises (R51). -/
theorem hPosition_mono (cw : CharWidth) {v v' : BitVec 12} (h : v ≤ v') : hPosition cw v ≤ hPosition cw v' := by
  rw [BitVec.le_def] at h ⊢
  rw [hPosition_toNat, hPosition_toNat]
  exact min_le_min_right _ (Nat.mul_le_mul_right _ h)

/-- The cell width in dots, from its register bit (R43). -/
theorem cellDots_deriveClocking (m : Memory) :
    cellDots (deriveClocking m).charWidth = if (regAt m 2 0x00).getLsbD 0 then 9 else 8 := by
  show cellDots (if (regAt m 2 0x00).getLsbD 0 then .nine else .eight) = _
  split_ifs <;> rfl

/-- A field that starts at bit `lo` of a register as a number. -/
theorem extractLsb'_byte (v : Byte) (lo w : Nat) : (v.extractLsb' lo w).toNat = v.toNat / 2 ^ lo % 2 ^ w := by
  rw [BitVec.extractLsb'_toNat, Nat.shiftRight_eq_div_pow]

/-- Character height is its five-bit field plus 1 (R41). -/
theorem charHeight_toNat (v : Byte) : ((v.extractLsb' 0 5).setWidth 6 + 1).toNat = v.toNat % 32 + 1 := by
  rw [BitVec.toNat_add, BitVec.toNat_setWidth, extractLsb'_byte]
  simp
  omega

/-- An entry of the derived `P.palette16` is its register (R45). -/
theorem deriveAttrCtl_palette16 (m : Memory) {k : Nat} (hk : k < 16) :
    (deriveAttrCtl m).palette16.toList.getD k 0 = regAt m secAttr (BitVec.ofNat 8 k) := by
  simp [deriveAttrCtl, List.getD_eq_getElem?_getD, hk]

/-- Settles O19: every field is a whole register, a bit of one, or the arithmetic of one of the field lemmas above. -/
theorem horizontalClamp : Obligations.HorizontalClamp := by
  unfold Obligations.HorizontalClamp
  refine ⟨fun cw v => ?_, fun cw v v' => hPosition_mono cw, by decide, fun m => ?_⟩
  · cases cw <;> exact hPosition_toNat _ v
  · have low (sec idx : Byte) (w : Nat) :
        ((regAt m sec idx).extractLsb' 0 w).toNat = (regAt m sec idx).toNat % 2 ^ w := by
      rw [extractLsb'_byte, Nat.pow_zero, Nat.div_one]
    have h (lo : Byte) : (hPosition (deriveClocking m).charWidth (reg12 m secCrtc lo)).toNat =
        min (((regAt m 1 lo).toNat + 256 * ((regAt m 1 (lo + 1)).toNat % 16)) *
          (if (regAt m 2 0x00).getLsbD 0 then 9 else 8)) 0x7FFF := by
      rw [hPosition_toNat, reg12_toNat, cellDots_deriveClocking]
      rfl
    have v (lo : Byte) : (reg12 m secCrtc lo).toNat = _ := reg12_toNat m secCrtc lo
    have f (sec lo : Byte) : (reg16 m sec lo).toNat = _ := reg16_toNat m sec lo
    refine ⟨⟨h _, h _, h _, h _, h _, h _, h _⟩, ⟨v _, v _, v _, v _, v _, v _, v _⟩,
      ⟨charHeight_toNat _, f _ _, f _ _, low _ _ 2, v _, f _ _, low _ _ 5, rfl, low _ _ 5, low _ _ 5, low _ _ 2,
        rfl, rfl, rfl, rfl⟩,
      ⟨rfl, rfl, extractLsb'_byte _ 1 2, rfl⟩, ⟨low _ _ 2, extractLsb'_byte _ 2 2, rfl, f _ _, f _ _⟩,
      ⟨rfl, extractLsb'_byte _ 1 2⟩,
      ⟨fun k hk => congrArg BitVec.toNat (deriveAttrCtl_palette16 m hk), low _ _ 2, rfl, rfl, rfl, rfl, rfl, rfl,
        low _ _ 4, low _ _ 4, low _ _ 2, extractLsb'_byte _ 2 2⟩,
      ⟨rfl, low _ _ 3, rfl, rfl, rfl, low _ _ 2, rfl⟩⟩

end Sys2Proof.Machine
end

section
/-! PROOF. Which reserved selector refuses which operation (R52, R201, R211, U3). -/

namespace Sys2Proof.Machine

/-! ### Answers that are refusals -/

/-- An answer refused is the refusal of the stage it wraps. -/
theorem outcome_eq_refused {r : Res State} {e : Refusal} : outcome r = .refused e ↔ r = .error e := by
  cases r <;> simp [outcome]

/-- A stage that is refused refuses what comes after it. -/
theorem bind_refused {α β : Type} {x : Res α} {e : Refusal} (h : x = .error e) (f : α → Res β) :
    (x >>= f) = .error e := by
  rw [h]
  rfl

/-- An operation whose first stage is refused is refused. -/
theorem outcome_bind_refused {α : Type} {x : Res α} {e : Refusal} (h : x = .error e) (f : α → Res State) :
    outcome (x >>= f) = .refused e := outcome_eq_refused.2 (bind_refused h f)

/-- A stage after one that answers goes on from the answer. -/
theorem bind_of_ok {α β : Type} {x : Res α} {a : α} (h : x = .ok a) (f : α → Res β) : (x >>= f) = f a := by
  rw [h]
  rfl

/-! ### Addresses -/

/-- Under the reserved address mode no address is translated (R276). -/
theorem translate_refused {s : State} (h : s.P.crtc.addrMode = 3) (a : Nat) :
    translate s a = .error (.reservedSelector .addrMode) := by
  simp only [translate, h]
  rfl

/-- PA.ODDEVEN needs the address mode (R273, log 12). -/
theorem paOddevenIn_refused {p : Precalc} (h : p.crtc.addrMode = 3) (wrap : Bool) (a : BitVec 32) :
    paOddevenIn p wrap a = .error (.reservedSelector .addrMode) := by
  simp only [paOddevenIn, h]
  rfl

/-- PADEC needs the address mode where odd/even is selected for its direction (R154, R270). -/
theorem planeAddr_refused {p : Precalc} (h : p.crtc.addrMode = 3) {write : Bool}
    (hsel : (if write then p.mem.paWrite else p.mem.paRead) = 2) (a : BitVec 32) :
    planeAddr p write a = .error (.reservedSelector .addrMode) := by
  simp only [planeAddr, hsel]
  exact paOddevenIn_refused h p.crtc.wrapSel a

/-! ### Fetches -/

/-- Counting the unit leaves what the fetch registers hold (R242). -/
theorem holds_countUnit {s : State} {n : Nat} : holds (countUnit s) (unitGroup s n) = true ↔ Held s n := by
  simp [holds, countUnit, Held]

/-- A group that is not held is not fetched under the reserved address mode (R249). -/
theorem fetchGroup_refused {s : State} {group : BitVec 15} (hn : ¬holds s group = true) (h : s.P.crtc.addrMode = 3) :
    fetchGroup group s = .error (.reservedSelector .addrMode) := by
  simp only [fetchGroup, hn, translate_refused h]
  rfl

/-- A cell that is not held is not fetched under the reserved address mode (R243). -/
theorem fetchCell_refused {s : State} {col : BitVec 15} (hn : ¬holds s col = true) (h : s.P.crtc.addrMode = 3)
    (char16 : Bool) : fetchCell char16 col s = .error (.reservedSelector .addrMode) := by
  simp only [fetchCell, hn, translate_refused h]
  rfl

/-- A byte widened to a word has a zero byte on top. -/
theorem setWidth_byte (b : Byte) : b.setWidth 16 = (0 : Byte) ++ b :=
  BitVec.setWidth_eq_append (w := 16) (by decide)

/-- A cell's character, as a fetch puts it together (R243, R244). -/
theorem cellWord_char (s : State) (char16 : Bool) (off : Nat) : cellWord s char16 0 2 off = fetchedChar s char16 off := by
  cases char16
  · exact setWidth_byte _
  · rfl

/-- A cell's `at` word, as a fetch puts it together (R243, R244). -/
theorem cellWord_attr (s : State) (char16 : Bool) (off : Nat) : cellWord s char16 1 3 off = fetchedAttr s char16 off := by
  cases char16
  · exact setWidth_byte _
  · rfl

/-- What a cell fetch loads (R243, R245). -/
theorem loadCell_S (s : State) (char16 : Bool) (n off : Nat) :
    (loadCell char16 (unitGroup s n) (unitAddr s n) off (countUnit s)).S = textRuntime s n char16 off := by
  simp only [loadCell, cellWord_char, cellWord_attr, State.setS_S]
  rfl

/-- A cell that is held, or whose address is translated, is in the fetch registers afterwards (R243). -/
theorem fetchCell_textAfter {s : State} {n off : Nat} (char16 : Bool)
    (h : Held s n ∨ translate s (unitAddr s n) = .ok off) :
    ∃ t, fetchCell char16 (unitGroup s n) (countUnit s) = .ok t ∧ t.P = s.P ∧ t.S = textAfter s n char16 off := by
  by_cases hh : Held s n
  · exact ⟨countUnit s, by simp only [fetchCell, holds_countUnit.2 hh, if_true], rfl, by rw [textAfter, if_pos hh]; rfl⟩
  · have ht : translate (countUnit s) (groupAddr (countUnit s) (unitGroup s n)) = .ok off := h.resolve_left hh
    refine ⟨loadCell char16 (unitGroup s n) (unitAddr s n) off (countUnit s), ?_, rfl, ?_⟩
    · simp only [fetchCell, mt holds_countUnit.1 hh, ht]
      rfl
    · rw [loadCell_S, textAfter, if_neg hh]

/-! ### Decode -/

/-- The cell in the fetch registers is the cursor's, on a row of its shape (R247). -/
theorem cursorCell_iff (s : State) : cursorCell s = true ↔ cursorShape s.P s.S := by
  simp [cursorCell, cursorShape, and_assoc]

/-- The cursor's cell needs the cursor rate (R247, log 11). -/
theorem cursorHere_refused {s : State} (hc : cursorShape s.P s.S) (h : s.P.attr.cursorBlinkSel = 3) :
    cursorHere s = .error (.reservedSelector .cursorBlinkSel) := by
  simp only [cursorHere, (cursorCell_iff s).2 hc, if_true, cursorOn, blinkOn, h]
  rfl

/-- Text decode needs `P.attr_mode` (R243, R290). -/
theorem decodeText_attrMode {s : State} (h : s.P.attr.attrMode = 3) (cw : CharWidth) (lg c16 : Bool)
    (px : BitVec 15) : decodeText cw lg c16 px s = .error (.reservedSelector .attrMode) := by
  simp only [decodeText, h]
  rfl

/-- Graphics decode needs `P.attr_mode` (R249, R290). -/
theorem decodeGraphics_attrMode {s : State} (h : s.P.attr.attrMode = 3) (shift : ShiftMode) (px : BitVec 15) :
    decodeGraphics shift px s = .error (.reservedSelector .attrMode) := by
  simp only [decodeGraphics, h]
  rfl

/-- Text decode after `P.attr_mode` and the fetch: the cursor (R243). -/
theorem decodeText_fetched {s t : State} {mode : AttrMode} (hm : attrModeOf s.P.attr.attrMode = .ok mode)
    {cw : CharWidth} {lg c16 : Bool} {px : BitVec 15}
    (hf : fetchCell c16 (BitVec.ofNat 15 (px.toNat / cellDots cw)) s = .ok t) {e : Refusal}
    (hc : cursorHere t = .error e) : decodeText cw lg c16 px s = .error e := by
  simp only [decodeText, hm, hf, hc, bind, Except.bind]

/-- Text decode needs the address mode where it must fetch (R243). -/
theorem decodeText_addrMode {s : State} (hm : s.P.attr.attrMode ≠ 3) (h : s.P.crtc.addrMode = 3) {cw : CharWidth}
    (hn : ¬Held s (cellDots cw)) (lg c16 : Bool) :
    decodeText cw lg c16 (unitIndex s) (countUnit s) = .error (.reservedSelector .addrMode) := by
  obtain ⟨mode, e⟩ := attrModeOf_legal hm
  have e : attrModeOf (countUnit s).P.attr.attrMode = .ok mode := e
  have hf := fetchCell_refused (s := countUnit s) (mt holds_countUnit.1 hn) h c16
  simp only [unitGroup] at hf
  simp only [decodeText, e, hf, bind, Except.bind]

/-- Graphics decode needs the address mode where it must fetch (R249). -/
theorem decodeGraphics_addrMode {s : State} {mode : AttrMode} (hm : attrModeOf s.P.attr.attrMode = .ok mode)
    (h : s.P.crtc.addrMode = 3) {shift : ShiftMode} (hn : ¬Held s (unitsPerDword shift mode)) :
    decodeGraphics shift (unitIndex s) (countUnit s) = .error (.reservedSelector .addrMode) := by
  have e : attrModeOf (countUnit s).P.attr.attrMode = .ok mode := hm
  have hf := fetchGroup_refused (s := countUnit s) (mt holds_countUnit.1 hn) h
  simp only [unitGroup] at hf
  simp only [decodeGraphics, e, hf, bind, Except.bind]

/-- The planar and packed shift modes give 8 units from a dword (R252). -/
theorem unitsPerDword_eight {shift : ShiftMode} (h : shift ≠ .shift256) (mode : AttrMode) :
    unitsPerDword shift mode = 8 := by
  cases shift
  case shift256 => exact absurd rfl h
  all_goals rfl

/-- The 256-colour shift mode gives 4 units under ATTR16 and 8 otherwise (R252). -/
theorem unitsPerDword_shift256 {v : BitVec 2} {mode : AttrMode} (h : attrModeOf v = .ok mode) :
    unitsPerDword .shift256 mode = if v = 2 then 4 else 8 := by
  rcases attrModeOf_cases v with ⟨rfl, e⟩ | ⟨rfl, e⟩ | ⟨rfl, e⟩ | ⟨-, e⟩ <;> rw [e] at h <;> cases h <;> rfl

/-- The cell width of DEC.TEXT's operand (R114). -/
theorem cellDots_operand (char9 : Bool) : cellDots (if char9 then .nine else .eight) = dotsOf char9 := by
  cases char9 <;> rfl

/-- A refused text decode refuses DEC.TEXT (R243). -/
theorem execDecText_refused {char9 lg c16 : Bool} {s : State} {e : Refusal}
    (h : decodeText (if char9 then .nine else .eight) lg c16 (unitIndex s) (countUnit s) = .error e) :
    exec (.decText char9 lg c16) s = .refused e := outcome_bind_refused h _

/-! ### The ATTR stage -/

/-- A unit whose lookup depends on the blink phase needs the text blink rate (R291, R292, log 11). -/
theorem lookup_refused {ai : AttrInfo} {s : State} (h : s.P.attr.textBlinkSel = 3) (hn : NeedsTextBlink s.P ai) :
    lookup ai s = .error (.reservedSelector .textBlinkSel) := by
  obtain ⟨htext, hblink, hbit⟩ := hn
  have hm : blinkMatters s.P (ai.attr.extractLsb' 0 8) = true := by
    simp [blinkMatters, htext, hblink, hbit, -BitVec.getLsbD_eq_getElem]
  simp only [lookup, hm, if_true, textBlinkOn, blinkOn, h]
  rfl

/-- An ATTR variant on a unit in the stage registers (R290). -/
theorem onUnit_some {f : AttrInfo → State → Res (Option AttrValue × State)} {s : State} {ai : AttrInfo}
    (h : s.pipe.ai = some ai) : onUnit f s = outcome (f ai s >>= fun r => pure (putValue r)) := by
  simp only [onUnit, h]

/-- The ATTR stage carries the stage registers along (R290). -/
theorem resolve_setPipe (ai : AttrInfo) (s : State) (p : Pipe) :
    resolve ai (s.setPipe p) = (resolve ai s).map fun r => (r.1, r.2.setPipe p) := by
  have hl : lookup ai (s.setPipe p) = lookup ai s := rfl
  unfold resolve
  rw [State.setPipe_P]
  rcases attrModeOf_cases s.P.attr.attrMode with ⟨-, e⟩ | ⟨-, e⟩ | ⟨-, e⟩ | ⟨-, e⟩
  · rw [bind_of_ok e, bind_of_ok e]
    simp only [attr4Of, hl]
    cases lookup ai s <;> rfl
  · rw [bind_of_ok e, bind_of_ok e]
    simp only [attr8Of, hl]
    cases lookup ai s with
    | error r => rfl
    | ok v => cases ai.phase <;> rfl
  · rw [bind_of_ok e, bind_of_ok e]
    simp only [attr16Of]
    cases ai.phase <;> rfl
  · rw [bind_refused e, bind_refused e]
    rfl

/-- The ATTR variant of the selectors, on the unit in the stage registers (R114, R290). -/
theorem exec_attrVariant {s : State} {ai : AttrInfo} (hai : s.pipe.ai = some ai) (hm : s.P.attr.attrMode ≠ 3) :
    exec (attrVariant s.P) s = outcome (resolve ai s >>= fun r => pure (putValue r)) := by
  unfold resolve attrVariant
  rcases attrModeOf_cases s.P.attr.attrMode with ⟨e0, e⟩ | ⟨e0, e⟩ | ⟨e0, e⟩ | ⟨e0, -⟩
  · rw [bind_of_ok e, e0]
    exact onUnit_some hai
  · rw [bind_of_ok e, e0]
    exact onUnit_some hai
  · rw [bind_of_ok e, e0]
    exact onUnit_some (f := fun ai s => .ok (attr16Of ai s)) hai
  · exact absurd e0 hm

/-! ### The reload tick -/

/-- A refused decode step refuses the reload tick (R211). -/
theorem reload_decode_refused {s : State} {e : Refusal} (h : decodeUnit s = .error e) : reload s = .error e := by
  simp only [reload, h, bind, Except.bind]

/-- A refused ATTR stage refuses the reload tick (R211). -/
theorem reload_resolve_refused {s : State} {u : AttrInfo × State} {e : Refusal} (hu : decodeUnit s = .ok u)
    (h : resolve u.1 u.2 = .error e) : reload s = .error e := by
  simp only [reload, hu, h, bind, Except.bind]

/-- A value under a reserved DAC mode refuses the reload tick (R312). -/
theorem reload_dacMode_refused {s : State} {u : AttrInfo × State} {v : Option AttrValue × State}
    (hu : decodeUnit s = .ok u) (hv : resolve u.1 u.2 = .ok v) (hsome : v.1 ≠ none) (hd : 4 < s.P.dac.dacMode.toNat) :
    reload s = .error (.reservedSelector .dacMode) := by
  obtain ⟨c, hc⟩ := Option.ne_none_iff_exists'.1 hsome
  have hP : v.2.P = s.P := (resolve_stage hv).P.trans (decodeUnit_stage hu).P
  have hr : dacStage c v.2 = .error (.reservedSelector .dacMode) :=
    bind_refused (by rw [hP, dacModeOf_reserved hd]; rfl) _
  simp only [reload, hu, hv, hc, hr, bind, Except.bind]

/-- A refused reload tick refuses the active-display row (R211). -/
theorem execRActive_reload_refused {s : State} {e : Refusal} (hp : s.P.clk.pixelDiv ≠ 3) (h0 : s.S.divPhase = 0)
    (h : reload s = .error e) : exec .rActive s = .refused e := by
  have hnow : reloadNow s = true := by simp [reloadNow, h0]
  refine outcome_eq_refused.2 ?_
  simp only [activeDisplay, divisorOf_legal hp, hnow, if_true, h, bind, Except.bind]

/-- The active-display row needs the pixel divider (R241). -/
theorem execRActive_pixelDiv {s : State} (h : s.P.clk.pixelDiv = 3) :
    exec .rActive s = .refused (.reservedSelector .pixelDiv) := outcome_bind_refused (by rw [h]; rfl) _

/-- Graphics decode needs the shift mode (R249). -/
theorem decodeUnit_shiftMode {s : State} (ht : s.P.gfx.textMode = false) (hs : s.P.gfx.shiftMode = 3) :
    decodeUnit s = .error (.reservedSelector .shiftMode) := by
  simp only [decodeUnit, ht, hs]
  rfl

/-- The decode step needs `P.attr_mode` (R242, R290). -/
theorem decodeUnit_attrMode {s : State} {u : AttrInfo × State} (h : decodeUnit s = .ok u) : s.P.attr.attrMode ≠ 3 := by
  intro hm
  unfold decodeUnit at h
  split at h
  · rw [decodeText_attrMode (s := countUnit s) hm] at h
    cases h
  · obtain ⟨shift, -, h⟩ := bind_ok h
    rw [decodeGraphics_attrMode (s := countUnit s) hm] at h
    cases h

/-- The decode variant of the selectors is the decode step, its unit put into the stage registers (R114, R242). -/
theorem exec_decodeVariant {s : State} (hs : s.P.gfx.textMode = true ∨ s.P.gfx.shiftMode ≠ 3)
    (hw : s.P.clk.charWidth = (if s.P.clk.char9 then .nine else .eight)) :
    exec (decodeVariant s.P) s = outcome (decodeUnit s >>= fun u => pure (putUnit u)) := by
  unfold decodeVariant decodeUnit
  by_cases ht : s.P.gfx.textMode = true
  · rw [if_pos ht, if_pos ht, hw]
    rfl
  · rw [if_neg ht, if_neg ht]
    rcases shiftModeOf_cases s.P.gfx.shiftMode with ⟨e0, e⟩ | ⟨e0, e⟩ | ⟨e0, e⟩ | ⟨e0, -⟩
    · rw [bind_of_ok e, e0]
      rfl
    · rw [bind_of_ok e, e0]
      rfl
    · rw [bind_of_ok e, e0]
      rfl
    · exact absurd e0 (hs.resolve_left ht)

/-- A run of operations goes on from the first one's next state. -/
theorem runOps_cons_next {i : Instr} {is : List Instr} {s t : State} (h : exec i s = .next t) :
    runOps (i :: is) s = runOps is t >>= fun r => pure (r.1, t.result :: r.2) := by
  simp only [runOps, h]

/-- A run of operations is refused with its first operation. -/
theorem runOps_cons_refused {i : Instr} {is : List Instr} {s : State} {e : Refusal} (h : exec i s = .refused e) :
    runOps (i :: is) s = .error e := by
  simp only [runOps, h]

/-- The decode and ATTR variants issued alone: refused with the decode step, else with the ATTR stage on its
unit, else the stage registers hold the ATTR stage's value (R211, log 4). -/
theorem runOps_stages {s : State} (hs : s.P.gfx.textMode = true ∨ s.P.gfx.shiftMode ≠ 3)
    (hw : s.P.clk.charWidth = (if s.P.clk.char9 then .nine else .eight)) :
    (∃ e, runOps [decodeVariant s.P, attrVariant s.P] s = .error e ∧ reload s = .error e) ∨
      ∃ u v w rs, decodeUnit s = .ok u ∧ resolve u.1 u.2 = .ok v ∧
        runOps [decodeVariant s.P, attrVariant s.P] s = .ok (w, rs) ∧ w.pipe.val = v.1 := by
  have hd := exec_decodeVariant hs hw
  cases hu : decodeUnit s with
  | error e => exact .inl ⟨e, runOps_cons_refused (hd.trans (outcome_bind_refused hu _)), reload_decode_refused hu⟩
  | ok u =>
    rw [bind_of_ok hu] at hd
    have hP : (putUnit u).P = s.P := (decodeUnit_stage hu).P
    have ha : exec (attrVariant s.P) (putUnit u) = outcome (resolve u.1 (putUnit u) >>= fun r => pure (putValue r)) := by
      rw [← hP]
      exact exec_attrVariant rfl (hP ▸ decodeUnit_attrMode hu)
    have hr : resolve u.1 (putUnit u) = _ := resolve_setPipe u.1 u.2 { u.2.pipe with ai := some u.1 }
    rw [runOps_cons_next hd]
    cases hv : resolve u.1 u.2 with
    | error e =>
      rw [hv] at hr
      exact .inl ⟨e, bind_refused (runOps_cons_refused (ha.trans (outcome_bind_refused hr _))) _,
        reload_resolve_refused hu hv⟩
    | ok v =>
      rw [hv] at hr
      rw [bind_of_ok hr] at ha
      exact .inr ⟨u, v, _, _, rfl, hv, by rw [runOps_cons_next ha]; rfl, rfl⟩

/-! ### Ticks -/

/-- The dispatch of a position without a total bit runs the render row of that position (R113, R210). -/
theorem outcome_dispatch (s : State) :
    outcome (dispatch false (retracing s) (signal s) s) = exec (renderRow s) s := by
  have low {k : Nat} (h : k < 8) := signal_low s h
  have high {k : Nat} (h : 8 ≤ k) := signal_high s h
  simp only [dispatch, renderRow, retracing, sigHActive, sigVActive, sigHOverscan, sigVOverscan, Bool.false_or,
    low (show 5 < 8 by decide), low (show 6 < 8 by decide), high (show 8 ≤ 13 by decide), high (show 8 ≤ 14 by decide)]
  by_cases hr : (s.S.hretrace || s.S.vretrace) = true
  · rw [if_pos hr, if_pos hr]
    rfl
  · rw [if_neg hr, if_neg hr]
    by_cases ha : ((htabAt s s.S.x).getLsbD 5 && (vtabAt s s.S.y).getLsbD 13) = true
    · rw [if_pos ha, if_pos ha]
      rfl
    · rw [if_neg ha, if_neg ha]
      cases (htabAt s s.S.x).getLsbD 6 <;> cases (vtabAt s s.S.y).getLsbD 14 <;> rfl

/-- A tick at a position without a total bit is refused with its render row (R201, R210). -/
theorem execTick_refused {s : State} {e : Refusal} (h : totalHere s = false)
    (hr : exec (renderRow (resolved s)) (resolved s) = .refused e) : exec .tick s = .refused e := by
  have hl := signalLoop_still Config.retryBound s ((totalBits_signal s).trans h)
  have hsig : signal (resolved s) = signal s := signal_congr rfl rfl rfl rfl
  rw [← outcome_dispatch, hsig, outcome_eq_refused] at hr
  refine outcome_bind_refused ?_ _
  rw [hl, evaluate_eq_resolved]
  exact hr

/-- ADVANCE is refused with the first tick that is (R147, log 20). -/
theorem execAdvance_refused {s t : State} {n m : BitVec 32} {e : Refusal} (hn : exec (.advance n) s = .next t)
    (ht : exec .tick t = .refused e) (hlt : n < m) : exec (.advance m) s = .refused e := by
  have hlt : n.toNat < m.toNat := hlt
  obtain ⟨k, hk⟩ : ∃ k, m.toNat = n.toNat + (k + 1) := ⟨m.toNat - n.toNat - 1, by omega⟩
  have hn : ticks n.toNat s = .ok t := outcome_eq_next.1 hn
  refine outcome_eq_refused.2 ?_
  rw [hk, ticks_add, hn]
  exact bind_refused (outcome_eq_refused.1 ht) _

/-! ### The clauses of O44 -/

/-- PA.ODDEVEN is refused under the reserved address mode, in both directions (R273, log 12). -/
theorem paOddeven_addrMode_refused {s : State} (h : s.P.crtc.addrMode = 3) (wrap : Bool) (a : BitVec 32) :
    ∀ i ∈ [Instr.paOddevenR wrap a, Instr.paOddevenW wrap a], exec i s = .refused (.reservedSelector .addrMode) := by
  have hr := paOddevenIn_refused h wrap a
  intro i hi
  obtain rfl | rfl : i = _ ∨ i = _ := by simpa using hi
  · exact outcome_bind_refused hr _
  · exact outcome_bind_refused hr _

/-- The decode variants that must fetch are refused under the reserved address mode (R243, R249). -/
theorem decode_addrMode_refused {s : State} (h : s.P.crtc.addrMode = 3) (hm : s.P.attr.attrMode ≠ 3) :
    (¬Held s 8 → ∀ i ∈ [Instr.decPlanar, Instr.decPacked], exec i s = .refused (.reservedSelector .addrMode)) ∧
    (¬Held s (if s.P.attr.attrMode = 2 then 4 else 8) →
      exec .decShift256 s = .refused (.reservedSelector .addrMode)) ∧
    (∀ char9 lg c16 : Bool, ¬Held s (dotsOf char9) →
      exec (.decText char9 lg c16) s = .refused (.reservedSelector .addrMode)) := by
  obtain ⟨mode, e⟩ := attrModeOf_legal hm
  refine ⟨fun hn i hi => ?_, fun hn => ?_, fun char9 lg c16 hn => ?_⟩
  · have hd (shift : ShiftMode) (hs : shift ≠ .shift256) := decodeGraphics_addrMode e h (shift := shift)
      (by rwa [unitsPerDword_eight hs])
    obtain rfl | rfl : i = _ ∨ i = _ := by simpa using hi
    · exact outcome_bind_refused (hd .planar (by decide)) _
    · exact outcome_bind_refused (hd .packed (by decide)) _
  · exact outcome_bind_refused (decodeGraphics_addrMode e h (by rwa [unitsPerDword_shift256 e])) _
  · exact execDecText_refused (decodeText_addrMode hm h (by rwa [cellDots_operand]) lg c16)

/-- All four decode variants are refused under the reserved `P.attr_mode` (R290). -/
theorem decode_attrMode_refused {s : State} (h : s.P.attr.attrMode = 3) (char9 lg c16 : Bool) :
    ∀ i ∈ [Instr.decPlanar, Instr.decPacked, Instr.decShift256, Instr.decText char9 lg c16],
      exec i s = .refused (.reservedSelector .attrMode) := by
  have hd (shift : ShiftMode) := decodeGraphics_attrMode (s := countUnit s) h shift (unitIndex s)
  intro i hi
  obtain rfl | rfl | rfl | rfl : i = _ ∨ i = _ ∨ i = _ ∨ i = _ := by simpa using hi
  · exact outcome_bind_refused (hd .planar) _
  · exact outcome_bind_refused (hd .packed) _
  · exact outcome_bind_refused (hd .shift256) _
  · exact execDecText_refused (decodeText_attrMode (s := countUnit s) h _ _ _ _)

/-- DEC.TEXT on a dot of the cursor's shape is refused under the reserved cursor rate (R247). -/
theorem decText_cursor_refused {s : State} {char9 c16 : Bool} {off : Nat} (hm : s.P.attr.attrMode ≠ 3)
    (h : s.P.attr.cursorBlinkSel = 3) (hf : Held s (dotsOf char9) ∨ translate s (unitAddr s (dotsOf char9)) = .ok off)
    (hc : cursorShape s.P (textAfter s (dotsOf char9) c16 off)) (lg : Bool) :
    exec (.decText char9 lg c16) s = .refused (.reservedSelector .cursorBlinkSel) := by
  obtain ⟨mode, e⟩ := attrModeOf_legal hm
  obtain ⟨t, ht, hP, hS⟩ := fetchCell_textAfter c16 hf
  have hc : cursorHere t = _ := cursorHere_refused (by rwa [hP, hS]) (by rwa [hP])
  rw [unitGroup, ← cellDots_operand] at ht
  exact execDecText_refused (decodeText_fetched (s := countUnit s) e ht hc)

/-- The lookup of a blinking unit is refused under the reserved text blink rate (R292). -/
theorem attr_textBlink_refused {s : State} {ai : AttrInfo} (hai : s.pipe.ai = some ai)
    (h : s.P.attr.textBlinkSel = 3) (hn : NeedsTextBlink s.P ai) :
    ∀ i ∈ [Instr.attr4, Instr.attr8], exec i s = .refused (.reservedSelector .textBlinkSel) := by
  have hl := lookup_refused h hn
  intro i hi
  obtain rfl | rfl : i = _ ∨ i = _ := by simpa using hi
  · exact (onUnit_some hai).trans (outcome_bind_refused (bind_refused hl _) _)
  · exact (onUnit_some hai).trans (outcome_bind_refused (bind_refused hl _) _)

/-- The active-display row on a reload tick is refused with its stages issued alone, and under a reserved DAC mode
where they give a value (R211). -/
theorem rActive_stages_refused {s : State} (hp : s.P.clk.pixelDiv ≠ 3) (h0 : s.S.divPhase = 0)
    (hs : s.P.gfx.textMode = true ∨ s.P.gfx.shiftMode ≠ 3)
    (hw : s.P.clk.charWidth = (if s.P.clk.char9 then .nine else .eight)) :
    (∀ r, runOps [decodeVariant s.P, attrVariant s.P] s = .error r → exec .rActive s = .refused r) ∧
    (∀ u rs, runOps [decodeVariant s.P, attrVariant s.P] s = .ok (u, rs) → u.pipe.val ≠ none →
      4 < s.P.dac.dacMode.toNat → exec .rActive s = .refused (.reservedSelector .dacMode)) := by
  obtain ⟨e, hrun, hre⟩ | ⟨u, v, w, rs, hu, hv, hrun, hval⟩ := runOps_stages hs hw
  · refine ⟨fun r hr => ?_, fun u rs hr => ?_⟩
    · obtain rfl : e = r := Except.error.inj (hrun.symm.trans hr)
      exact execRActive_reload_refused hp h0 hre
    · cases hrun.symm.trans hr
  · refine ⟨fun r hr => ?_, fun u' rs' hr hsome hd => ?_⟩
    · cases hrun.symm.trans hr
    · obtain ⟨rfl, -⟩ : w = u' ∧ rs = rs' := Prod.mk.inj (Except.ok.inj (hrun.symm.trans hr))
      exact execRActive_reload_refused hp h0 (reload_dacMode_refused hu hv (hval ▸ hsome) hd)

/-- Settles O44: the refusals of the stages, of the active-display row, and of the ticks. -/
theorem reservedSelectorRefused : Obligations.ReservedSelectorRefused := by
  unfold Obligations.ReservedSelectorRefused
  refine ⟨fun s h => ⟨paOddeven_addrMode_refused h,
      fun write a hsel => outcome_bind_refused (planeAddr_refused h hsel a) _, decode_addrMode_refused h⟩,
    fun s char9 lg c16 h => decode_attrMode_refused h char9 lg c16,
    fun s char9 lg c16 off hm h hf hc => decText_cursor_refused hm h hf hc lg,
    fun s ai hai h hn => attr_textBlink_refused hai h hn,
    fun s h => outcome_bind_refused (dacModeOf_reserved h) _,
    fun s h => execRActive_pixelDiv h,
    fun s hp h0 => ⟨fun ht hs => ?_, fun hs hw => rActive_stages_refused hp h0 hs hw⟩,
    fun s r h hr => execTick_refused h hr,
    fun s t n m r hn ht hlt => execAdvance_refused hn ht hlt⟩
  exact execRActive_reload_refused hp h0 (reload_decode_refused (decodeUnit_shiftMode ht hs))

end Sys2Proof.Machine
end

section
/-! PROOF. Steps and the schedule (R95), and plane reads and writes (R84, R85, R88, R152, R153). -/

namespace Sys2Proof.Machine

/-! ### The first request's turn -/

/-- A step is the turn of the first request whose caller is not inside WAITVBL (R95). -/
theorem step_head {s : State} {r : Request} {rest : List Request} (hq : s.queue = r :: rest)
    (hw : s.waiters.contains r.actor = false) : step s = runTurn s r rest := by
  simp only [step, takeNext, nextTurn_head hq hw, hw, Bool.false_eq_true, if_false]

/-- A turn runs the operation its word decodes to. -/
theorem runTurn_decoded {r : Request} {i : Instr} (h : decode r.issue = .ok i) (s : State) (rest : List Request) :
    runTurn s r rest = exec i (s.takeTurn r.actor rest) := by
  simp only [runTurn, h]

/-- A table word has a meaning exactly when the issue that presents it decodes (log 5). -/
theorem decodeTableWord_eq_some {n w : Nat} {i : Instr} :
    decodeTableWord n w = some i ↔ decode (tableIssue n w) = .ok i := by
  unfold decodeTableWord
  cases decode (tableIssue n w) <;> simp [Except.toOption]

/-- Taking a turn leaves no trace of a request placed at the head of the schedule. -/
theorem takeTurn_issueFirst (s : State) (issue : Issue) (a : Nat) (rest : List Request) :
    (issueFirst s issue).takeTurn a rest = s.takeTurn a rest := rfl

/-- Settles O4: the first request of a caller that is not waiting takes the turn, and the caller that
`withFetchWord` names is not waiting. -/
theorem stepRunsDecoded : Obligations.StepRunsDecoded := by
  unfold Obligations.StepRunsDecoded
  refine ⟨fun s a w rest i hq hw hd => ?_, fun s n w i hd => ?_⟩
  · rw [step_head hq hw, runTurn_decoded hd]
  · have hq : (s.withFetchWord n w).queue = ⟨freeActor s, tableIssue n w⟩ :: s.queue := rfl
    rw [step_head hq (freeActor_free s), runTurn_decoded (decodeTableWord_eq_some.1 hd)]
    exact congrArg (exec i) (takeTurn_issueFirst s (tableIssue n w) (freeActor s) s.queue)

/-! ### The effective offset -/

/-- The masked offset lies past the limit or past the plane (R84). -/
def OutsidePlane (par : Params) (off : Nat) : Prop :=
  (∃ lim, par.vramLimit = some lim ∧ lim ≤ off &&& par.vramMask) ∨ par.planeSize ≤ off &&& par.vramMask

/-- An offset is outside when no offset is effective (R84). -/
theorem effectiveOffset_outside {par : Params} {off : Nat} (h : OutsidePlane par off) :
    effectiveOffset par off = none := by
  unfold effectiveOffset
  obtain ⟨lim, hl, hle⟩ | hsize := h
  · simp [hl, hle]
  · simp [hsize]

/-- The effective offset inside a plane is the masked one (R84). -/
theorem effectiveOffset_inside {par : Params} {off : Nat} (h : ¬OutsidePlane par off) :
    effectiveOffset par off = some (off &&& par.vramMask) := by
  obtain ⟨hlim, hsize⟩ := not_or.1 h
  unfold effectiveOffset
  cases hl : par.vramLimit with
  | none => simp [hsize]
  | some lim =>
    have : ¬lim ≤ off &&& par.vramMask := fun hle => hlim ⟨lim, hl, hle⟩
    simp [this, hsize]

/-- Only the masked offset counts. -/
theorem OutsidePlane.congr {par : Params} {off off' : Nat} (h : off' &&& par.vramMask = off &&& par.vramMask) :
    OutsidePlane par off' ↔ OutsidePlane par off := by
  simp only [OutsidePlane, h]

/-! ### Plane reads and writes -/

/-- Outside the plane a read floats (R84). -/
theorem planeRead_outside {s : State} {off : Nat} (h : OutsidePlane s.par off) (p : Nat) :
    planeRead s p off = Config.floatingBus := by
  simp only [planeRead, effectiveOffset_outside h]

/-- Inside the plane a read is the stored byte (R84). -/
theorem planeRead_inside {s : State} {off : Nat} (h : ¬OutsidePlane s.par off) (p : Nat) :
    planeRead s p off = s.vram.read (planeKey p (off &&& s.par.vramMask)) := by
  simp only [planeRead, effectiveOffset_inside h]

/-- Outside the plane a write is dropped (R85). -/
theorem planeWrite_outside {s : State} {off : Nat} (h : OutsidePlane s.par off) (p : Nat) (v : Byte) :
    planeWrite p off v s = s := by
  simp only [planeWrite, effectiveOffset_outside h]

/-- Inside the plane a write stores one byte, and reports itself for planes 2 and 3 (R85, R88). -/
theorem planeWrite_inside {s : State} {off : Nat} (h : ¬OutsidePlane s.par off) (p : Nat) (v : Byte) :
    planeWrite p off v s = { s with
      vram := s.vram.write (planeKey p (off &&& s.par.vramMask)) v
      events := if 2 ≤ p then .plane23 p (off &&& s.par.vramMask) :: s.events else s.events } := by
  simp only [planeWrite, effectiveOffset_inside h]
  split <;> rfl

/-- A plane write leaves the parameters alone. -/
@[simp] theorem planeWrite_par (p off : Nat) (v : Byte) (s : State) : (planeWrite p off v s).par = s.par := by
  obtain ⟨vram, new, e⟩ := planeWrite_frame p off v s
  rw [e]

/-- A plane read after a plane write: the written byte at the same place of the same plane, else what it was (R84,
R85). -/
theorem planeRead_planeWrite {s : State} {p q off off' : Nat} (hwf : s.vram.wf = true) (hp : p ≤ 3) (hq : q ≤ 3)
    (h : ¬OutsidePlane s.par off) (v : Byte) :
    planeRead (planeWrite p off v s) q off' =
      if q = p ∧ off' &&& s.par.vramMask = off &&& s.par.vramMask then v else planeRead s q off' := by
  have hpar := planeWrite_par p off v s
  by_cases h' : OutsidePlane s.par off'
  · have hne : off' &&& s.par.vramMask ≠ off &&& s.par.vramMask := fun e => h ((OutsidePlane.congr e).1 h')
    rw [planeRead_outside h', planeRead_outside (hpar.symm ▸ h'), if_neg fun hsame => hne hsame.2]
  · have hvram : (planeWrite p off v s).vram = s.vram.write (planeKey p (off &&& s.par.vramMask)) v := by
      rw [planeWrite_inside h]
    rw [planeRead_inside h', planeRead_inside (hpar.symm ▸ h'), hpar, hvram, Memory.read_write _ _ _ _ hwf]
    simp only [planeKey_inj hq hp]

/-! ### VREAD and VWRITE -/

/-- The word of VREAD (R111). -/
theorem decode_vread (plane b c : Byte) (off : BitVec 32) :
    decode (.hop (hopWord 0x07 plane b c off)) = .ok (.vread plane off) := by
  simp only [decode, decodeHop, hopOp_hopWord, hopA_hopWord, hopD_hopWord]
  rfl

/-- The word of VWRITE (R111). -/
theorem decode_vwrite (plane b val : Byte) (off : BitVec 32) :
    decode (.hop (hopWord 0x06 plane b val off)) = .ok (.vwrite plane val off) := by
  simp only [decode, decodeHop, hopOp_hopWord, hopA_hopWord, hopC_hopWord, hopD_hopWord]
  rfl

/-- VREAD answers the byte of one of the four planes (R153). -/
theorem exec_vread {plane : Byte} (hp : plane.toNat ≤ 3) (off : BitVec 32) (s : State) :
    exec (.vread plane off) s = .next (s.setResult (.byte (planeRead s plane.toNat off.toNat))) := by
  simp only [exec, execVread, hp, if_true]

/-- VREAD of a plane above 3 floats (R153). -/
theorem exec_vread_noPlane {plane : Byte} (hp : 3 < plane.toNat) (off : BitVec 32) (s : State) :
    exec (.vread plane off) s = .next (s.setResult (.byte Config.floatingBus)) := by
  simp only [exec, execVread, Nat.not_le.2 hp, if_false]

/-- VWRITE writes one of the four planes (R152). -/
theorem exec_vwrite {plane : Byte} (hp : plane.toNat ≤ 3) (val : Byte) (off : BitVec 32) (s : State) :
    exec (.vwrite plane val off) s = .next (planeWrite plane.toNat off.toNat val s) := by
  simp only [exec, execVwrite, hp, if_true]

/-- VWRITE to a plane above 3 is dropped (R152). -/
theorem exec_vwrite_noPlane {plane : Byte} (hp : 3 < plane.toNat) (val : Byte) (off : BitVec 32) (s : State) :
    exec (.vwrite plane val off) s = .next s := by
  simp only [exec, execVwrite, Nat.not_le.2 hp, if_false]

/-- Settles O21: by the cases of the statement, plane above 3, past the limit, past the plane, inside. -/
theorem vramRead : Obligations.VramRead := by
  unfold Obligations.VramRead
  refine ⟨decode_vread, fun s plane off => ?_⟩
  by_cases hp : 3 < plane.toNat
  · rw [if_pos hp]
    exact exec_vread_noPlane hp off s
  · rw [if_neg hp, exec_vread (Nat.not_lt.1 hp)]
    by_cases hlim : ∃ lim, s.par.vramLimit = some lim ∧ lim ≤ off.toNat &&& s.par.vramMask
    · rw [if_pos hlim, planeRead_outside (.inl hlim)]
      rfl
    · rw [if_neg hlim]
      by_cases hsize : s.par.planeSize ≤ off.toNat &&& s.par.vramMask
      · rw [if_pos hsize, planeRead_outside (.inr hsize)]
        rfl
      · rw [if_neg hsize, planeRead_inside (not_or.2 ⟨hlim, hsize⟩)]
        rfl

/-- Settles O22: inside the plane by the reads after a plane write; past a limit or a size the write is dropped. -/
theorem vramWrite : Obligations.VramWrite := by
  unfold Obligations.VramWrite
  refine ⟨decode_vwrite, fun s plane val off hwf => ⟨fun hp hsize hlim => ?_, fun hout => ?_⟩⟩
  · have hin : ¬OutsidePlane s.par off.toNat :=
      not_or.2 ⟨fun ⟨lim, hl, hle⟩ => Nat.not_le.2 (hlim lim hl) hle, Nat.not_le.2 hsize⟩
    refine ⟨_, exec_vwrite hp val off s, fun q hq off' => planeRead_planeWrite hwf hp hq hin val, ?_, ?_⟩
    · rw [planeWrite_inside hin]
    · rw [planeWrite_inside hin]
  · by_cases hp : 3 < plane.toNat
    · exact exec_vwrite_noPlane hp val off s
    · rw [exec_vwrite (Nat.not_lt.1 hp), planeWrite_outside ((hout.resolve_left hp).symm)]

end Sys2Proof.Machine
end

section
/-! PROOF. The decoder on the formats HOP, SIG and PMODE, and the encoder against it (R110 to R116, R119). -/

namespace Sys2Proof

/-! ### The operation codes (R111) -/

/-- The ten operation codes, and the codes of no operation (R111, R119). -/
theorem opcode_cases (op : Byte) : op = 0x00 ∨ op = 0x01 ∨ op = 0x02 ∨ op = 0x03 ∨ op = 0x04 ∨ op = 0x05 ∨
    op = 0x06 ∨ op = 0x07 ∨ op = 0x08 ∨ op = 0x09 ∨ 0x0A ≤ op.toNat := by
  revert op
  decide

section Opcodes

variable {w : HopWord}

theorem decodeHop_reset (h : hopOp w = 0x00) : decodeHop w = .ok .reset := by
  simp only [decodeHop, h]
  rfl

theorem decodeHop_write (h : hopOp w = 0x01) : decodeHop w = .ok (decodeWrite (hopA w) (hopB w) (hopC w)) := by
  simp only [decodeHop, h]
  rfl

theorem decodeHop_read (h : hopOp w = 0x02) : decodeHop w = .ok (decodeRead (hopA w) (hopB w)) := by
  simp only [decodeHop, h]
  rfl

theorem decodeHop_recalc (h : hopOp w = 0x03) :
    decodeHop w = .ok (.recalc (hopA w) (hopB w) ((hopC w).getLsbD 0)) := by
  simp only [decodeHop, h]
  rfl

theorem decodeHop_advance (h : hopOp w = 0x04) : decodeHop w = .ok (.advance (hopD w)) := by
  simp only [decodeHop, h]
  rfl

theorem decodeHop_waitvbl (h : hopOp w = 0x05) : decodeHop w = .ok .waitvbl := by
  simp only [decodeHop, h]
  rfl

theorem decodeHop_vwrite (h : hopOp w = 0x06) : decodeHop w = .ok (.vwrite (hopA w) (hopC w) (hopD w)) := by
  simp only [decodeHop, h]
  rfl

theorem decodeHop_vread (h : hopOp w = 0x07) : decodeHop w = .ok (.vread (hopA w) (hopD w)) := by
  simp only [decodeHop, h]
  rfl

theorem decodeHop_padec (h : hopOp w = 0x08) : decodeHop w = .ok (.padec ((hopA w).getLsbD 0) (hopD w)) := by
  simp only [decodeHop, h]
  rfl

theorem decodeHop_penpos (h : hopOp w = 0x09) :
    decodeHop w = .ok (.penpos ((hopD w).extractLsb' 0 15) ((hopD w).extractLsb' 16 12)) := by
  simp only [decodeHop, h]
  rfl

/-- The codes from 0x0A on are unmapped ports (R119). -/
theorem decodeHop_unmapped (h : 0x0A ≤ (hopOp w).toNat) : decodeHop w = .error (.unmappedPort (hopOp w)) := by
  unfold decodeHop
  split
  case h_11 => rfl
  all_goals omega

end Opcodes

/-! ### Register words: the DAC rows before the plain accesses (R160 to R164) -/

/-- A well-formed WRREG names no DAC row, so its fields decode to it. -/
theorem decodeWrite_plain {a b : Byte} (h : isDacWriteRow a b = false) (c : Byte) :
    decodeWrite a b c = .wrreg a b c := by
  unfold decodeWrite
  by_cases ha : a = dacSection
  · have hb : 3 < b.toNat := by simpa [isDacWriteRow, ha] using h
    have hne (k : Byte) (hk : k.toNat ≤ 3) : b ≠ k := fun e => absurd hk (e ▸ Nat.not_le.2 hb)
    rw [if_pos ha, if_neg (hne 0 (by decide)), if_neg (hne 1 (by decide)), if_neg (hne 2 (by decide)),
      if_neg (hne 3 (by decide))]
  · rw [if_neg ha]

/-- A well-formed RDREG is not the DAC row, so its fields decode to it. -/
theorem decodeRead_plain {a b : Byte} (h : isDacReadRow a b = false) : decodeRead a b = .rdreg a b := by
  have hn : ¬(a = dacSection ∧ b = 3) := by simpa [isDacReadRow] using h
  rw [decodeRead, if_neg hn]

/-- Past the four DAC rows a register write word is a well-formed WRREG. -/
theorem decodeWrite_wf (a b c : Byte) : (decodeWrite a b c).wf = true := by
  unfold decodeWrite
  split_ifs with ha h0 h1 h2 h3
  · rfl
  · rfl
  · rfl
  · rfl
  · have hrow : ∀ b : Byte, b ≠ 0 → b ≠ 1 → b ≠ 2 → b ≠ 3 → ¬b.toNat ≤ 3 := by decide
    simp [Instr.wf, isDacWriteRow, hrow b h0 h1 h2 h3]
  · simp [Instr.wf, isDacWriteRow, ha]

/-- Past the DAC row a register read word is a well-formed RDREG. -/
theorem decodeRead_wf (a b : Byte) : (decodeRead a b).wf = true := by
  unfold decodeRead
  split_ifs with h
  · rfl
  · have hrow : isDacReadRow a b = false := by simpa [isDacReadRow] using h
    simp [Instr.wf, hrow]

/-! ### Every decoded operation is well-formed -/

/-- A decoder's answer is a well-formed operation, if it is one at all. -/
def OnlyWellFormed (r : Except Reject Instr) : Prop := ∀ i, r = .ok i → i.wf = true

theorem OnlyWellFormed.ok {i : Instr} (h : i.wf = true) : OnlyWellFormed (.ok i) := by
  rintro _ ⟨⟩
  exact h

theorem OnlyWellFormed.error (e : Reject) : OnlyWellFormed (.error e) := nofun

theorem OnlyWellFormed.ifSelected {i : Instr} (h : i.wf = true) (sel : Bool) : OnlyWellFormed (ifSelected sel i) := by
  cases sel
  · exact .error _
  · exact .ok h

/-- Format HOP: only the register words could name an ill-formed operation (R111). -/
theorem decodeHop_wf (w : HopWord) : OnlyWellFormed (decodeHop w) := by
  rcases opcode_cases (hopOp w) with h | h | h | h | h | h | h | h | h | h | h
  · rw [decodeHop_reset h]; exact .ok rfl
  · rw [decodeHop_write h]; exact .ok (decodeWrite_wf _ _ _)
  · rw [decodeHop_read h]; exact .ok (decodeRead_wf _ _)
  · rw [decodeHop_recalc h]; exact .ok rfl
  · rw [decodeHop_advance h]; exact .ok rfl
  · rw [decodeHop_waitvbl h]; exact .ok rfl
  · rw [decodeHop_vwrite h]; exact .ok rfl
  · rw [decodeHop_vread h]; exact .ok rfl
  · rw [decodeHop_padec h]; exact .ok rfl
  · rw [decodeHop_penpos h]; exact .ok rfl
  · rw [decodeHop_unmapped h]; exact .error _

/-- Format SIG: a boundary micro-operation or a render row (R113, R116). -/
theorem decodeSig_wf (u : SigUnit) (cls : BitVec 2) (w : SigWord) : OnlyWellFormed (decodeSig u cls w) := by
  cases u
  case render =>
    refine .ok ?_
    unfold decodeRender
    split_ifs <;> rfl
  all_goals exact .ifSelected rfl _

/-- Format PMODE: a stage variant, or a reserved selector (R114). -/
theorem decodePmode_wf (u : StageUnit) (w : PmodeWord) (operand : BitVec 32) :
    OnlyWellFormed (decodePmode u w operand) := by
  cases u
  case decode =>
    simp only [decodePmode, decodeDecodeStage]
    split_ifs
    · exact .ok rfl
    · split
      case h_4 => exact .error _
      all_goals exact .ok rfl
  case divider | translate | resolver =>
    simp only [decodePmode, decodeDivider, decodeTranslate, decodeAttribute]
    split
    case h_4 => exact .error _
    all_goals exact .ok rfl
  case depth =>
    simp only [decodePmode, decodeDepth]
    split
    case h_6 => exact .error _
    all_goals exact .ok rfl
  case mono | paRead | paWrite =>
    refine .ok ?_
    simp only [decodeMono, decodePaRead, decodePaWrite]
    split <;> rfl
  case lum =>
    refine .ok ?_
    split_ifs <;> rfl
  case level | output => exact .ok rfl
  case lut | swap | off => exact .ifSelected rfl _

/-- Whatever is issued, a decoded operation is well-formed. -/
theorem decode_wf (w : Issue) : OnlyWellFormed (decode w) := by
  cases w with
  | hop w => exact decodeHop_wf w
  | poll => exact .error _
  | clock => exact .ok rfl
  | sig u cls w => exact decodeSig_wf u cls w
  | pmode u w operand => exact decodePmode_wf u w operand

/-! ### Every well-formed operation decodes from its encoding -/

/-- A flag put into bit 0 of a byte (RECALC's `whole`, PADEC's direction: R115, R154). -/
theorem flagByte_getLsbD (b : Bool) : (BitVec.ofNat 8 b.toNat).getLsbD 0 = b := by
  cases b <;> rfl

/-- The round trip, row by row: the host operations by their codes, the rows that one unit of SIG or PMODE selects by
evaluation, at both values of a one-bit operand. -/
theorem decode_encode (i : Instr) (hi : i.wf = true) : decode (encode i) = .ok i := by
  cases i
  case wrreg sec idx val =>
    have hrow : isDacWriteRow sec idx = false := by simpa [Instr.wf] using hi
    refine (decodeHop_write (hopOp_hopWord ..)).trans ?_
    rw [hopA_hopWord, hopB_hopWord, hopC_hopWord, decodeWrite_plain hrow]
  case rdreg sec idx =>
    have hrow : isDacReadRow sec idx = false := by simpa [Instr.wf] using hi
    refine (decodeHop_read (hopOp_hopWord ..)).trans ?_
    rw [hopA_hopWord, hopB_hopWord, decodeRead_plain hrow]
  case recalc sec idx whole =>
    refine (decodeHop_recalc (hopOp_hopWord ..)).trans ?_
    rw [hopA_hopWord, hopB_hopWord, hopC_hopWord, flagByte_getLsbD]
  case advance n => exact (decodeHop_advance (hopOp_hopWord ..)).trans (by rw [hopD_hopWord])
  case vwrite plane val off => exact Machine.decode_vwrite plane 0 val off
  case vread plane off => exact Machine.decode_vread plane 0 0 off
  case padec write addr =>
    refine (decodeHop_padec (hopOp_hopWord ..)).trans ?_
    rw [hopA_hopWord, hopD_hopWord, flagByte_getLsbD]
  case penpos x y =>
    refine (decodeHop_penpos (hopOp_hopWord ..)).trans ?_
    rw [hopD_hopWord, penWord_x, penWord_y]
  case dacmask val | dacridx val | dacwidx val | dacwdata val =>
    refine (decodeHop_write (hopOp_hopWord ..)).trans ?_
    rw [hopA_hopWord, hopB_hopWord, hopC_hopWord]
    rfl
  case decText char9 lineGraphics char16 => cases char9 <;> cases lineGraphics <;> cases char16 <;> rfl
  case xltWord wrap addr | paOddevenR wrap addr | paOddevenW wrap addr => cases wrap <;> rfl
  all_goals rfl

/-- Settles O1: the round trip row by row, and well-formedness format by format. -/
theorem decodeAndEncodeAgree : Obligations.DecodeAndEncodeAgree := by
  unfold Obligations.DecodeAndEncodeAgree
  exact ⟨decode_encode, decode_wf⟩

/-! ### The bits an operation does not use -/

/-- Words that agree under a mask agree in every field the mask covers. -/
theorem extractLsb'_of_masked {n : Nat} {w w' m : BitVec n} (h : w &&& m = w' &&& m) (lo len : Nat)
    (hm : m.extractLsb' lo len = BitVec.allOnes len) : w.extractLsb' lo len = w'.extractLsb' lo len := by
  have he := congrArg (·.extractLsb' lo len) h
  simpa only [BitVec.extractLsb'_and, hm, BitVec.and_allOnes] using he

/-- A field of `d` is a field of the word (R155). -/
theorem hopD_extractLsb' (w : HopWord) {lo len : Nat} (h : lo + len ≤ 32) :
    (hopD w).extractLsb' lo len = w.extractLsb' lo len := by
  ext k hk
  simp [hopD, show lo + k < 32 by omega]

/-- The code picks the fields the decoder reads, and the bits in use cover them (R110, R111). -/
theorem decodeHop_eq_of_used {w w' : HopWord} (hop : hopOp w = hopOp w')
    (h : w &&& Machine.hopUsed (hopOp w) = w' &&& Machine.hopUsed (hopOp w)) : decodeHop w = decodeHop w' := by
  have field := extractLsb'_of_masked h
  have bit {k : Nat} := getLsbD_of_masked h (k := k)
  rcases opcode_cases (hopOp w) with e | e | e | e | e | e | e | e | e | e | e
  · rw [decodeHop_reset e, decodeHop_reset (hop ▸ e)]
  · rw [e] at field
    have ha : hopA w = hopA w' := field 48 8 (by decide)
    have hb : hopB w = hopB w' := field 40 8 (by decide)
    have hc : hopC w = hopC w' := field 32 8 (by decide)
    rw [decodeHop_write e, decodeHop_write (hop ▸ e), ha, hb, hc]
  · rw [e] at field
    have ha : hopA w = hopA w' := field 48 8 (by decide)
    have hb : hopB w = hopB w' := field 40 8 (by decide)
    rw [decodeHop_read e, decodeHop_read (hop ▸ e), ha, hb]
  · rw [e] at field bit
    have ha : hopA w = hopA w' := field 48 8 (by decide)
    have hb : hopB w = hopB w' := field 40 8 (by decide)
    have hc : (hopC w).getLsbD 0 = (hopC w').getLsbD 0 := by
      simpa [hopC] using bit (k := 32) (by decide)
    rw [decodeHop_recalc e, decodeHop_recalc (hop ▸ e), ha, hb, hc]
  · rw [e] at field
    have hd : hopD w = hopD w' := field 0 32 (by decide)
    rw [decodeHop_advance e, decodeHop_advance (hop ▸ e), hd]
  · rw [decodeHop_waitvbl e, decodeHop_waitvbl (hop ▸ e)]
  · rw [e] at field
    have ha : hopA w = hopA w' := field 48 8 (by decide)
    have hc : hopC w = hopC w' := field 32 8 (by decide)
    have hd : hopD w = hopD w' := field 0 32 (by decide)
    rw [decodeHop_vwrite e, decodeHop_vwrite (hop ▸ e), ha, hc, hd]
  · rw [e] at field
    have ha : hopA w = hopA w' := field 48 8 (by decide)
    have hd : hopD w = hopD w' := field 0 32 (by decide)
    rw [decodeHop_vread e, decodeHop_vread (hop ▸ e), ha, hd]
  · rw [e] at field bit
    have ha : (hopA w).getLsbD 0 = (hopA w').getLsbD 0 := by
      simpa [hopA] using bit (k := 48) (by decide)
    have hd : hopD w = hopD w' := field 0 32 (by decide)
    rw [decodeHop_padec e, decodeHop_padec (hop ▸ e), ha, hd]
  · rw [e] at field
    have hx : (hopD w).extractLsb' 0 15 = (hopD w').extractLsb' 0 15 := by
      simpa only [hopD_extractLsb' _ (show 0 + 15 ≤ 32 by decide)] using field 0 15 (by decide)
    have hy : (hopD w).extractLsb' 16 12 = (hopD w').extractLsb' 16 12 := by
      simpa only [hopD_extractLsb' _ (show 16 + 12 ≤ 32 by decide)] using field 16 12 (by decide)
    rw [decodeHop_penpos e, decodeHop_penpos (hop ▸ e), hx, hy]
  · rw [decodeHop_unmapped e, decodeHop_unmapped (hop ▸ e), hop]

/-- Settles O2: code by code, the bits in use cover the fields the decoder reads. -/
theorem unusedBitsIgnored : Obligations.UnusedBitsIgnored := by
  unfold Obligations.UnusedBitsIgnored
  exact fun w w' hop h => decodeHop_eq_of_used hop h

/-- Settles O3: ten closed words, evaluated. -/
theorem decodesSpecWords : Obligations.DecodesSpecWords := by
  unfold Obligations.DecodesSpecWords
  decide

end Sys2Proof

namespace Sys2Proof.Machine

/-- A turn whose word holds a reserved selector is refused (U3). -/
theorem runTurn_reserved {r : Request} {sel : Selector} (h : decode r.issue = .error (.reserved sel)) (s : State)
    (rest : List Request) : runTurn s r rest = .refused (.reservedSelector sel) := by
  simp only [runTurn, h]

/-- A turn whose word stands for no operation otherwise is only taken (R119, log 21). -/
theorem runTurn_dropped {r : Request} {e : Reject} (h : decode r.issue = .error e) (hne : ∀ sel, e ≠ .reserved sel)
    (s : State) (rest : List Request) : runTurn s r rest = .next (s.takeTurn r.actor rest) := by
  unfold runTurn
  rw [h]
  cases e
  case reserved sel => exact absurd rfl (hne sel)
  all_goals rfl

/-- Settles O5: the unmapped codes, and the turn of a word that is rejected. -/
theorem stepWithoutOperation : Obligations.StepWithoutOperation := by
  unfold Obligations.StepWithoutOperation
  refine ⟨fun w h => decodeHop_unmapped h, fun s a w rest r hq hw hd => ?_⟩
  rw [step_head hq hw]
  cases r
  case reserved sel => exact runTurn_reserved hd s rest
  all_goals exact runTurn_dropped (r := ⟨a, w⟩) hd nofun s rest

end Sys2Proof.Machine
end

section
/-! PROOF. What one tick adds to the event list, and the latches it leaves (R122, R203, R204, R206). -/

namespace Sys2Proof.Machine

/-! ### Frame boundaries -/

/-- `t` is `k` frame boundaries further than `s`: so many FRAME events, steps of the frame counter, and the
vertical-blank flag set if there is one (R204). -/
def FramesOn (k : Nat) (s t : State) : Prop :=
  t.events = List.replicate k .frame ++ s.events ∧ t.S.frameCtr = s.S.frameCtr + BitVec.ofNat 6 k ∧
    t.S.vblankFlag = (s.S.vblankFlag || decide (0 < k))

/-- Where the events, the counter and the flag stand as they were, no frame boundary was passed. -/
theorem FramesOn.none {s t : State} (he : t.events = s.events) (hc : t.S.frameCtr = s.S.frameCtr)
    (hf : t.S.vblankFlag = s.S.vblankFlag) : FramesOn 0 s t := by
  simp [FramesOn, he, hc, hf]

theorem FramesOn.trans {j k : Nat} {s t u : State} (h : FramesOn j s t) (h' : FramesOn k t u) :
    FramesOn (k + j) s u := by
  obtain ⟨he, hc, hf⟩ := h
  obtain ⟨he', hc', hf'⟩ := h'
  refine ⟨?_, ?_, ?_⟩
  · rw [he', he, List.replicate_add, List.append_assoc]
  · rw [hc', hc, BitVec.ofNat_add, BitVec.add_assoc, BitVec.add_comm (BitVec.ofNat 6 j)]
  · have hpos : decide (0 < k + j) = (decide (0 < j) || decide (0 < k)) := by
      rw [Bool.eq_iff_iff]
      simp
      omega
    rw [hf', hf, hpos, Bool.or_assoc]

/-- One evaluation of the signal passes at most one frame boundary (R204). -/
theorem evaluate_framesOn (s : State) : ∃ k ≤ 1, FramesOn k s (evaluate s) := by
  rcases evaluate_cases s with h | h <;> rw [h]
  · exact ⟨0, by decide, .none rfl rfl rfl⟩
  · exact ⟨1, by decide, rfl, rfl, (Bool.or_true _).symm⟩

/-- The total handlers pass no frame boundary (R205, R207). -/
theorem runTotals_framesOn (sig : SigWord) (s : State) : FramesOn 0 s (runTotals sig s) := by
  have hH : FramesOn 0 s (hTotal s) := by
    rw [(hTotal_row s).1]
    exact .none rfl rfl rfl
  rcases runTotals_cases sig s with ⟨-, -, e⟩ | ⟨-, -, e⟩ | ⟨-, -, e⟩ | ⟨-, -, e⟩ <;> rw [e]
  · exact .none rfl rfl rfl
  · exact hH
  · exact .none rfl rfl rfl
  · exact hH

/-- The signal loop passes at most one frame boundary in each evaluation, and emits the diagnostic exactly if the
bound is exceeded (R206). -/
theorem signalLoop_framesOn : ∀ (n : Nat) (s : State), ∃ k ≤ n + 1, ∃ u, FramesOn k s u ∧
    (signalLoop n s).2.2 = if (signalLoop n s).2.1 then u.emit .diagRetry else u
  | 0, s => by
    obtain ⟨k, hk, h⟩ := evaluate_framesOn s
    refine ⟨k, hk, evaluate s, h, ?_⟩
    unfold signalLoop
    split <;> rfl
  | n + 1, s => by
    obtain ⟨k, hk, h⟩ := evaluate_framesOn s
    by_cases ht : totalBits (signal s) = true
    · rw [signalLoop_retry n s ht]
      obtain ⟨j, hj, u, hu, e⟩ := signalLoop_framesOn n (runTotals (signal s) (evaluate s))
      exact ⟨j + (0 + k), by omega, u, (h.trans (runTotals_framesOn _ _)).trans hu, e⟩
    · rw [signalLoop_still _ s (by simpa using ht)]
      exact ⟨k, by omega, evaluate s, h, rfl⟩

/-! ### The rendered row -/

/-- The events one output can add: none, one light-pen call, or that and one pixel (R341, R343). -/
def OutputTail (tail : List Event) : Prop :=
  tail = [] ∨ (∃ a b, tail = [.pen a b]) ∨ ∃ a b x y c, tail = [.pix x y c, .pen a b]

theorem outputEvents_tail (s : State) (c : Rgba) : OutputTail (outputEvents s c) := by
  unfold outputEvents
  split
  · exact .inr (.inl ⟨_, _, rfl⟩)
  · exact .inr (.inr ⟨_, _, _, _, _, rfl⟩)

/-- No output is a frame boundary. -/
theorem OutputTail.no_frame {tail : List Event} (h : OutputTail tail) : .frame ∉ tail := by
  obtain rfl | ⟨a, b, rfl⟩ | ⟨a, b, x, y, c, rfl⟩ := h <;> simp

/-- A dispatched row adds one output at most (R210). -/
theorem dispatch_outputTail {ta ra : Bool} {sig : SigWord} {s t : State} (h : dispatch ta ra sig s = .ok t) :
    ∃ tail, OutputTail tail ∧ t.events = tail ++ s.events := by
  obtain e | ⟨u, c, e, -, -⟩ := dispatch_events h
  · exact ⟨[], .inl rfl, e⟩
  · exact ⟨_, outputEvents_tail u c, e⟩

/-- A dispatched row leaves the frame counter and the vertical-blank flag alone (R211, R212). -/
theorem dispatch_frameFields {ta ra : Bool} {sig : SigWord} {s t : State} (h : dispatch ta ra sig s = .ok t) :
    t.S.frameCtr = s.S.frameCtr ∧ t.S.vblankFlag = s.S.vblankFlag := by
  obtain ⟨-, -, -, -, -, -, hf, hc, -⟩ := dispatch_samePosition h
  exact ⟨hc, hf⟩

/-- Past the bound no row is rendered (R206). -/
theorem dispatch_bound {ra : Bool} {sig : SigWord} {s t : State} (h : dispatch true ra sig s = .ok t) : t = s := by
  obtain rfl | ⟨hta, -⟩ := dispatch_cases h
  · rfl
  · cases hta

/-! ### The tick -/

/-- The events of a tick: its frame boundaries, then the diagnostic alone or one output at most (R122, R206). -/
theorem tick_framesOn {s t : State} (h : tick s = .ok t) : ∃ k ≤ 4, ∃ tail u, FramesOn k s u ∧
    (tail = [.diagRetry] ∨ OutputTail tail) ∧ t.events = tail ++ u.events ∧ t.S.frameCtr = u.S.frameCtr ∧
    t.S.vblankFlag = u.S.vblankFlag := by
  obtain ⟨v, hv, rfl⟩ := tick_cases h
  obtain ⟨k, hk, u, hu, e⟩ := signalLoop_framesOn Config.retryBound s
  cases hb : (signalLoop Config.retryBound s).2.1
  · rw [hb] at e hv
    rw [e] at hv
    obtain ⟨tail, htail, hev⟩ := dispatch_outputTail hv
    obtain ⟨hc, hf⟩ := dispatch_frameFields hv
    exact ⟨k, hk, tail, u, hu, .inr htail, hev, hc, hf⟩
  · rw [hb] at e hv
    rw [e] at hv
    obtain rfl := dispatch_bound hv
    exact ⟨k, hk, [.diagRetry], u, hu, .inl rfl, rfl, rfl, rfl⟩

/-- A tick at a position without a total bit is one evaluation and one row (R201). -/
theorem tick_still {s t : State} (hs : totalHere s = false) (h : tick s = .ok t) :
    ∃ u, dispatch false (retracing (resolved s)) (signal s) (resolved s) = .ok u ∧ t = advanceColumn u := by
  have hl := signalLoop_still Config.retryBound s ((totalBits_signal s).trans hs)
  obtain ⟨u, hu, rfl⟩ := tick_cases h
  rw [hl, evaluate_eq_resolved] at hu
  exact ⟨u, hu, rfl⟩

/-- Settles O34: the frame boundaries of the signal loop and the output of the row; without a total bit, the latches
of one evaluation, which no row writes. -/
theorem tickEventsAndLatches : Obligations.TickEventsAndLatches := by
  unfold Obligations.TickEventsAndLatches
  refine ⟨fun s t h => ?_, fun s t hs h => ?_⟩
  · obtain ⟨k, hk, tail, u, ⟨he, hc, hf⟩, htail, hev, hc', hf'⟩ := tick_framesOn (outcome_eq_next.1 h)
    refine ⟨k, tail, hk, by rw [hev, he, List.append_assoc], ?_, hc'.trans hc, hf'.trans hf⟩
    obtain htail | htail | htail | htail := htail
    · exact .inr (.inl htail)
    · exact .inl htail
    · exact .inr (.inr (.inl htail))
    · exact .inr (.inr (.inr htail))
  · obtain ⟨u, hu, rfl⟩ := tick_still hs (outcome_eq_next.1 h)
    obtain ⟨-, -, hhb, hvb, hhr, hvr, hf, hc, -⟩ := dispatch_samePosition hu
    obtain ⟨tail, htail, hev⟩ := dispatch_outputTail hu
    exact ⟨hhb, hvb, hhr, hvr, hf, hc, tail, hev, htail.no_frame⟩

end Sys2Proof.Machine
end

section
/-! PROOF. The stage variants issued one after another against a reload tick (R117, R211, log 4). -/

namespace Sys2Proof.Machine

/-! ### Runs of operations, their results aside -/

/-- The operations run one after another, from `s` to `t`. -/
def Runs (is : List Instr) (s t : State) : Prop := ∃ rs, runOps is s = .ok (t, rs)

theorem Runs.nil (s : State) : Runs [] s s := ⟨[], rfl⟩

theorem Runs.cons {i : Instr} {is : List Instr} {s t u : State} (h : exec i s = .next t) (h' : Runs is t u) :
    Runs (i :: is) s u := by
  obtain ⟨rs, h'⟩ := h'
  exact ⟨t.result :: rs, by rw [runOps_cons_next h, bind_of_ok h']; rfl⟩

theorem Runs.single {i : Instr} {s t : State} (h : exec i s = .next t) : Runs [i] s t := .cons h (.nil t)

theorem Runs.append {is js : List Instr} {s t u : State} (h : Runs is s t) (h' : Runs js t u) :
    Runs (is ++ js) s u := by
  induction is generalizing s with
  | nil =>
    obtain ⟨rs, h⟩ := h
    cases h
    exact h'
  | cons i is ih =>
    obtain ⟨rs, h⟩ := h
    cases hi : exec i s with
    | next v =>
      rw [runOps_cons_next hi] at h
      obtain ⟨r, hr, h⟩ := bind_ok h
      cases h
      exact .cons hi (ih ⟨r.2, hr⟩)
    | refused e =>
      rw [runOps_cons_refused hi] at h
      cases h
    | fault f => cases f

/-! ### The colour variants on the stage registers -/

/-- Two colour stages in a row are one, where the second does not look at the stage registers. -/
theorem onColour_onColour {f g : State → Rgba → Rgba}
    (hg : ∀ (s : State) (p : Pipe) (c : Rgba), g (s.setPipe p) c = g s c) (s : State) :
    onColour g (onColour f s) = onColour (fun s c => g s (f s c)) s := by
  have hcomp : (s.pipe.rgba.map (f s)).map (g (onColour f s)) = s.pipe.rgba.map fun c => g s (f s c) := by
    rw [Option.map_map]
    exact congrArg (s.pipe.rgba.map ·) (funext fun c => hg s _ (f s c))
  unfold onColour at hcomp ⊢
  rw [State.setPipe_pipe, hcomp]
  rfl

/-- A stage that changes no colour changes nothing. -/
theorem onColour_id {f : State → Rgba → Rgba} {s : State} (h : ∀ c, f s c = c) : onColour f s = s := by
  have hf : s.pipe.rgba.map (f s) = s.pipe.rgba := by
    cases s.pipe.rgba <;> simp [h]
  rw [onColour, hf]
  rfl

/-- A colour variant behind its selector bit (R321, R325). -/
theorem runs_optionally {b : Bool} {i : Instr} {f : State → Rgba → Rgba} {s : State}
    (h : exec i s = .next (onColour f s)) :
    Runs (optionally b i) s (onColour (fun s c => if b then f s c else c) s) := by
  cases b
  · have e : onColour (fun s c => if false = true then f s c else c) s = s := onColour_id fun _ => rfl
    rw [e]
    exact .nil s
  · exact .single h

/-- The monochrome variant of the selectors is the monochrome stage (R114, R323). -/
theorem exec_monoVariant (s : State) : exec (monoVariant s.P) s = .next (onColour mono s) := by
  unfold monoVariant
  have hmono {m : MonoMode} (h : monoModeOf s.P.dac.monoMode = m) : onColour (monoIn · m) s = onColour mono s := by
    subst h
    rfl
  rcases twoBit_cases s.P.dac.monoMode with e | e | e | e <;> rw [e] at hmono ⊢
  · exact congrArg Host.Outcome.next (hmono (m := .colour) rfl)
  · exact congrArg Host.Outcome.next (hmono (m := .white) rfl)
  · exact congrArg Host.Outcome.next (hmono (m := .green) rfl)
  · exact congrArg Host.Outcome.next (hmono (m := .amber) rfl)

/-- The variants between the depth conversion and DAC.OFF make up the stages of a direct colour, and there are none
in MODE8 (R312, R313). -/
theorem runs_tailVariants {s : State} {mode : DacMode} (hm : dacModeOf s.P.dac.dacMode = .ok mode) :
    Runs (tailVariants s.P) s (onColour (finish · mode) s) := by
  unfold tailVariants
  by_cases h8 : s.P.dac.dacMode = 0
  · obtain rfl : mode = .m8 := Except.ok.inj (hm.symm.trans (dacModeOf_m8.2 h8))
    rw [if_pos h8, onColour_id fun _ => rfl]
    exact .nil s
  · have hne : mode ≠ .m8 := fun e => h8 (dacModeOf_m8.1 (e ▸ hm))
    rw [if_neg h8]
    have hlut : Runs (optionally s.P.dac.dacLut .dacLut) s _ := runs_optionally rfl
    have hrun := (hlut.append (.single (exec_monoVariant _))).append (.single (i := .dacLevel) rfl)
    rw [onColour_onColour fun _ _ _ => rfl, onColour_onColour fun _ _ _ => rfl, List.append_assoc] at hrun
    cases mode
    case m8 => exact absurd rfl hne
    all_goals exact hrun

/-! ### The DAC latch on the stage registers -/

/-- The DAC latch on the answer of the ATTR stage, which may be none (R211, R311). -/
def latched (mode : DacMode) (v : Option AttrValue) (s : State) : Option (BitVec 32) × State :=
  match v with
  | none => (none, s)
  | some v => dacLatchIn mode v s

theorem latched_stage (mode : DacMode) (v : Option AttrValue) (s : State) : StageStep s (latched mode v s).2 := by
  cases v with
  | none => exact StageStep.refl s
  | some v => exact dacLatchIn_stage mode v s

/-- A latched byte carries the stage registers along (R311). -/
theorem latchByte_setPipe (n : Nat) (b : Byte) (s : State) (p : Pipe) :
    latchByte n b (s.setPipe p) = ((latchByte n b s).1, (latchByte n b s).2.setPipe p) := by
  by_cases h : (s.S.dacCount + 1).toNat = n
  · simp only [latchByte, State.setPipe_S, h, if_true]
    rfl
  · simp only [latchByte, State.setPipe_S, h, if_false]
    rfl

theorem latchBytes_setPipe (n : Nat) (p : Pipe) : ∀ (bs : List Byte) (out : Option (BitVec 32)) (s : State),
    latchBytes n bs out (s.setPipe p) = ((latchBytes n bs out s).1, (latchBytes n bs out s).2.setPipe p)
  | [], _, _ => rfl
  | b :: bs, out, s => by
    simp only [latchBytes, latchByte_setPipe]
    exact latchBytes_setPipe n p bs _ _

/-- The DAC latch carries the stage registers along (R311). -/
theorem latched_setPipe (mode : DacMode) (v : Option AttrValue) (s : State) (p : Pipe) :
    latched mode v (s.setPipe p) = ((latched mode v s).1, (latched mode v s).2.setPipe p) := by
  cases v with
  | none => rfl
  | some v =>
    simp only [latched, dacLatchIn]
    split
    · rfl
    · exact latchBytes_setPipe _ _ _ _ _

/-- A depth variant is the latch and the conversion of what it completes (R311 to R319, log 4). -/
theorem runDepth_eq (mode : DacMode) (s : State) :
    let r := latched mode s.pipe.val s
    runDepth mode s = r.2.setPipe { r.2.pipe with
      raw := r.1.map (presented r.2 mode), rgba := (r.1.map (presented r.2 mode)).map (depthColour r.2 mode) } := by
  unfold runDepth latched
  cases s.pipe.val <;> rfl

/-- The depth variant of the selectors (R114). -/
theorem exec_depthVariant {s : State} {mode : DacMode} (hm : dacModeOf s.P.dac.dacMode = .ok mode) :
    exec (depthVariant s.P) s = .next (runDepth mode s) := by
  unfold depthVariant
  rcases dacModeOf_cases s.P.dac.dacMode with ⟨e, h⟩ | ⟨e, h⟩ | ⟨e, h⟩ | ⟨e, h⟩ | ⟨e, h⟩ | ⟨-, h⟩ <;>
    cases h.symm.trans hm
  · rw [e]; rfl
  · rw [e]; rfl
  · rw [e]; rfl
  · rw [e]; rfl
  · rw [e]; rfl

theorem runDepth_P (mode : DacMode) (s : State) : (runDepth mode s).P = s.P := by
  rw [runDepth_eq]
  exact (latched_stage mode s.pipe.val s).P

/-- DAC.OFF where `P.dac_off` selects it is the DAC-off stage (R325). -/
theorem runs_dacOff (s : State) : Runs (optionally s.P.dac.dacOff .dacOff) s (onColour dacOffOf s) :=
  runs_optionally (f := fun _ _ => black) rfl

/-- The depth variant, the colour variants and DAC.OFF one after another (R312). -/
theorem runs_conversion {s : State} {mode : DacMode} (hm : dacModeOf s.P.dac.dacMode = .ok mode) :
    Runs ([depthVariant s.P] ++ tailVariants s.P ++ optionally s.P.dac.dacOff .dacOff) s
      (onColour dacOffOf (onColour (finish · mode) (runDepth mode s))) := by
  have hP : (runDepth mode s).P = s.P := runDepth_P mode s
  have htail := runs_tailVariants (s := runDepth mode s) (hP.symm ▸ hm)
  have hoff : Runs (optionally (runDepth mode s).P.dac.dacOff .dacOff) _ _ :=
    runs_dacOff (onColour (finish · mode) (runDepth mode s))
  rw [hP] at htail hoff
  exact ((Runs.single (exec_depthVariant hm)).append htail).append hoff

/-- They convert what the latch completes as the DAC does (R312). -/
theorem conversion_eq (mode : DacMode) (s : State) (p : Pipe) :
    ∃ q : Pipe, q.rgba = (latched mode p.val s).1.map (dacConvertIn (latched mode p.val s).2 mode) ∧
      onColour dacOffOf (onColour (finish · mode) (runDepth mode (s.setPipe p))) =
        (latched mode p.val s).2.setPipe q := by
  rw [runDepth_eq, State.setPipe_pipe, latched_setPipe]
  generalize latched mode p.val s = r
  obtain ⟨raw, t⟩ := r
  cases raw <;> exact ⟨_, rfl, rfl⟩

/-! ### The reload tick -/

/-- A reload tick that answers, stage by stage (R211). -/
theorem reload_cases {s t : State} {mode : DacMode} (hm : dacModeOf s.P.dac.dacMode = .ok mode) (h : reload s = .ok t) :
    ∃ u v, decodeUnit s = .ok u ∧ resolve u.1 u.2 = .ok v ∧
      t = (latched mode v.1 v.2).2.setS { (latched mode v.1 v.2).2.S with
        lastEmit := (latched mode v.1 v.2).1.map (dacConvertIn (latched mode v.1 v.2).2 mode) } := by
  obtain ⟨u, hu, h⟩ := bind_ok h
  obtain ⟨v, hv, h⟩ := bind_ok h
  refine ⟨u, v, hu, hv, ?_⟩
  have hP : v.2.P = s.P := (resolve_stage hv).P.trans (decodeUnit_stage hu).P
  cases hval : v.1 with
  | none =>
    rw [hval] at h
    cases h
    rfl
  | some c =>
    rw [hval] at h
    obtain ⟨w, hw, h⟩ := bind_ok h
    cases h
    obtain ⟨mode', hm', hs, hc⟩ := dacStage_cases hw
    rw [hP, hm] at hm'
    cases hm'
    rw [hc, hs]
    rfl

/-- The active-display row on a reload tick: the reload, a step of the divider, and the output (R211). -/
theorem execRActive_reload {s t : State} (hp : s.P.clk.pixelDiv ≠ 3) (h0 : s.S.divPhase = 0) (h : reload s = .ok t) :
    exec .rActive s = .next (showLast (stepDivider (2 ^ s.P.clk.pixelDiv.toNat) t)) := by
  have hnow : reloadNow s = true := by simp [reloadNow, h0]
  refine outcome_eq_next.2 ?_
  simp only [activeDisplay, divisorOf_legal hp, hnow, if_true, h, bind, Except.bind]
  rfl

/-! ### The stages of a reload tick issued alone -/

/-- The decode and ATTR variants leave the value of the ATTR stage in the stage registers (R211, R290). -/
theorem runs_unitStages {s : State} {u : AttrInfo × State} {v : Option AttrValue × State}
    (hs : s.P.gfx.textMode = true ∨ s.P.gfx.shiftMode ≠ 3)
    (hw : s.P.clk.charWidth = (if s.P.clk.char9 then .nine else .eight)) (hu : decodeUnit s = .ok u)
    (hv : resolve u.1 u.2 = .ok v) :
    ∃ p : Pipe, p.val = v.1 ∧ Runs [decodeVariant s.P, attrVariant s.P] s (v.2.setPipe p) := by
  have hP : (putUnit u).P = s.P := (decodeUnit_stage hu).P
  have hd : exec (decodeVariant s.P) s = .next (putUnit u) := by
    rw [exec_decodeVariant hs hw, bind_of_ok hu]
    rfl
  have hr : resolve u.1 (putUnit u) = .ok (v.1, v.2.setPipe { u.2.pipe with ai := some u.1 }) := by
    rw [putUnit, resolve_setPipe, hv]
    rfl
  have ha : exec (attrVariant s.P) (putUnit u) =
      .next (putValue (v.1, v.2.setPipe { u.2.pipe with ai := some u.1 })) := by
    rw [← hP, exec_attrVariant rfl (hP ▸ decodeUnit_attrMode hu), bind_of_ok hr]
    rfl
  exact ⟨_, rfl, .cons hd (.single ha)⟩

/-- With no last colour nothing is shown (R211). -/
theorem showLast_none {s : State} (h : s.S.lastEmit = none) : showLast s = s := by
  simp only [showLast, h]

theorem showLast_some {s : State} {c : Rgba} (h : s.S.lastEmit = some c) : showLast s = frameOutput c s := by
  simp only [showLast, h]

/-- With no colour in the stage registers OUT.PIXEL outputs nothing (R340, log 4). -/
theorem execOutPixel_none {s : State} (h : s.pipe.rgba = none) : exec .outPixel s = .next s := by
  simp only [exec, execOutPixel, h]

theorem execOutPixel_some {s : State} {c : Rgba} (h : s.pipe.rgba = some c) :
    exec .outPixel s = .next (frameOutput c s) := by
  simp only [exec, execOutPixel, h]

/-- The runtime registers a reload tick leaves before its output, with a colour or none, and with a divider phase
(R211). -/
def reloaded (r : Runtime) (colour : Option Rgba) (phase : BitVec 2) : Runtime :=
  { r with lastEmit := colour, divPhase := phase }

/-- OUT.PIXEL on a colour in the stage registers outputs what the active-display row does with the same last colour,
and the runtime registers differ in the last colour and the divider phase only (R211, R340). -/
theorem outPixel_showLast (s : State) (q : Pipe) (phase : BitVec 2) :
    ∃ u, exec .outPixel (s.setPipe q) = .next u ∧
      (showLast (s.setS (reloaded s.S q.rgba phase))).events = u.events ∧
      (showLast (s.setS (reloaded s.S q.rgba phase))).S = reloaded u.S u.pipe.rgba phase := by
  cases hq : q.rgba with
  | none =>
    refine ⟨s.setPipe q, execOutPixel_none hq, ?_⟩
    rw [showLast_none rfl, State.setPipe_pipe, hq]
    exact ⟨rfl, rfl⟩
  | some c =>
    refine ⟨frameOutput c (s.setPipe q), execOutPixel_some hq, ?_⟩
    rw [showLast_some rfl, frameOutput_eq, frameOutput_eq]
    dsimp only
    rw [State.setPipe_pipe, hq]
    exact ⟨rfl, rfl⟩

/-- Settles O43: the stages leave the colour of the reload tick in the stage registers, and OUT.PIXEL outputs it as the
row does. -/
theorem stagesMakeActiveDisplay : Obligations.StagesMakeActiveDisplay := by
  unfold Obligations.StagesMakeActiveDisplay
  intro s hlegal hw h0
  obtain ⟨-, hdiv, hshift, -, -, -, hdac⟩ := SelectorsLegal.fields hlegal
  obtain ⟨mode, hm⟩ := dacModeOf_legal hdac
  obtain ⟨t, ht⟩ := reload_ok hlegal
  obtain ⟨u, v, hu, hv, rfl⟩ := reload_cases hm ht
  have hst : StageStep (countUnit s) v.2 := (decodeUnit_stage hu).trans (resolve_stage hv)
  obtain ⟨p, hp, hunit⟩ := runs_unitStages (.inr hshift) hw hu hv
  have hP : v.2.P = s.P := hst.P
  have hconv := runs_conversion (s := v.2.setPipe p) (mode := mode) (hP.symm ▸ hm)
  obtain ⟨q, hq, he⟩ := conversion_eq mode v.2 p
  rw [he, hp] at hconv
  rw [hp] at hq
  have hphase : (latched mode v.1 v.2).2.S.divPhase = 0 := by
    rw [(hst.trans (latched_stage mode v.1 v.2)).1]
    exact h0
  have hrow := execRActive_reload hdiv h0 ht
  rw [← hq, stepDivider, State.setS_S, hphase] at hrow
  obtain ⟨w, hout, hev, hS⟩ := outPixel_showLast (latched mode v.1 v.2).2 q
    (BitVec.ofNat 2 (1 % 2 ^ s.P.clk.pixelDiv.toNat))
  obtain ⟨rs, hrun⟩ := (hunit.append hconv).append (.single hout)
  refine ⟨_, w, rs, hrow, ?_, hev, hS⟩
  simpa [stageList, hP] using hrun

end Sys2Proof.Machine
end

section
/-! PROOF. The host operations beside the register file: WAITVBL and its callers (R102, R150), ADVANCE (R147), PADEC
(R154, R270, R275) and PENPOS (R155). -/

namespace Sys2Proof.Machine

/-! ### ADVANCE -/

/-- One tick, run as a number of ticks (R147). -/
theorem ticks_one (s : State) : ticks 1 s = tick s := by
  rw [ticks]
  cases tick s <;> rfl

/-- Settles O33: the numbers of ticks add, and a sum that fits 32 bits is the sum of the operands. -/
theorem advanceComposes : Obligations.AdvanceComposes := by
  unfold Obligations.AdvanceComposes
  refine fun s => ⟨rfl, congrArg outcome (ticks_one s), fun n m t hfit hn => ?_⟩
  have hn : ticks n.toNat s = .ok t := outcome_eq_next.1 hn
  have hsum : (n + m).toNat = n.toNat + m.toNat := BitVec.toNat_add_of_lt hfit
  show outcome (ticks (n + m).toNat s) = outcome (ticks m.toNat t)
  rw [hsum, ticks_add, hn]
  rfl

/-! ### WAITVBL -/

/-- WAITVBL of a caller not waiting clears the flag and makes it wait (R150). -/
theorem exec_waitvbl_begins {s : State} (hw : s.waiters.contains s.actor = false) :
    exec .waitvbl s = .next { s with
      S := { s.S with vblankFlag := false }
      waiters := s.actor :: s.waiters } := by
  simp only [exec, execWaitvbl, waiting, hw]
  rfl

/-- A poll that finds the flag set releases the caller and keeps the flag (R150). -/
theorem exec_waitvbl_releases {s : State} (hw : s.waiters.contains s.actor = true) (hf : s.S.vblankFlag = true) :
    exec .waitvbl s = .next { s with waiters := s.waiters.filter (· != s.actor) } := by
  simp only [exec, execWaitvbl, waiting, hw, if_true, pollWait, hf]
  rfl

/-- A poll that finds the flag clear only reads (R150). -/
theorem exec_waitvbl_waits {s : State} (hw : s.waiters.contains s.actor = true) (hf : s.S.vblankFlag = false) :
    exec .waitvbl s = .next s := by
  simp only [exec, execWaitvbl, waiting, hw, if_true, pollWait, hf]
  rfl

/-- Settles O7: the beginning of a wait, and its polls with the flag set and clear. -/
theorem waitvblBeginsAndPolls : Obligations.WaitvblBeginsAndPolls := by
  unfold Obligations.WaitvblBeginsAndPolls
  exact ⟨fun s => exec_waitvbl_begins, fun s => exec_waitvbl_releases, fun s => exec_waitvbl_waits⟩

/-! ### Turns of a waiting caller -/

/-- Polls are never blocked, and with the flag set nothing is (R150). -/
theorem blocked_eq_false {s : State} {r : Request} (h : r.issue = .poll ∨ s.S.vblankFlag = true) :
    blocked s r = false := by
  obtain h | h := h <;> simp [blocked, h]

/-- An operation of a waiting caller is blocked while the flag is clear (R150). -/
theorem blocked_eq_true {s : State} {r : Request} (hw : s.waiters.contains r.actor = true)
    (hf : s.S.vblankFlag = false) (hi : r.issue ≠ .poll) : blocked s r = true := by
  simp only [blocked, hw, hf, bne_iff_ne.2 hi]
  rfl

/-- A blocked first request leaves the turn to the next caller that is not waiting, and stays ahead in the schedule
(R95, R102). -/
theorem step_second {s : State} {r r' : Request} {rest : List Request} (hq : s.queue = r :: r' :: rest)
    (hb : blocked s r = true) (hw : s.waiters.contains r'.actor = false) : step s = runTurn s r' (r :: rest) := by
  have hb' : blocked s r' = false := by simp only [blocked, hw, Bool.false_and]
  have hn : nextTurn s = some (r', r :: rest) := by
    rw [nextTurn, hq, pick, if_pos hb, pick_head hb']
    rfl
  simp only [step, takeNext, hn, hw, Bool.false_eq_true, if_false]

/-- The first request of a waiting caller, unless it is blocked, is a poll (R150). -/
theorem step_poll {s : State} {r : Request} {rest : List Request} (hq : s.queue = r :: rest)
    (hw : s.waiters.contains r.actor = true) (hb : blocked s r = false) :
    step s = exec .waitvbl (s.takeTurn r.actor (if r.issue = .poll then rest else s.queue)) := by
  have hn : nextTurn s = some (r, rest) := by rw [nextTurn, hq, pick_head hb]
  simp only [step, takeNext, hn, hw, if_true, pollTurn]

/-- Settles O6: a poll that waits, a turn that releases, and a blocked operation that lets the next caller's run. -/
theorem waitingCallerTurns : Obligations.WaitingCallerTurns := by
  unfold Obligations.WaitingCallerTurns
  refine ⟨fun s a rest hq hw hf => ?_, fun s a w rest hq hw hf => ?_,
    fun s a b w w' rest i hq hw hf hne hb hd => ?_⟩
  · rw [step_poll hq hw (blocked_eq_false (.inl rfl))]
    exact exec_waitvbl_waits hw hf
  · rw [step_poll hq hw (blocked_eq_false (.inr hf))]
    exact exec_waitvbl_releases hw hf
  · rw [step_second hq (blocked_eq_true hw hf hne) hb]
    exact runTurn_decoded hd s _

/-! ### PADEC -/

/-- The word of PADEC (R111, R154). -/
theorem decode_padec (dir b c : Byte) (a : BitVec 32) :
    decode (.hop (hopWord 0x08 dir b c a)) = .ok (.padec (dir.getLsbD 0) a) := by
  refine (decodeHop_padec (hopOp_hopWord ..)).trans ?_
  rw [hopA_hopWord, hopD_hopWord]

/-- The selector of the direction of an access (R270). -/
def paSelector (p : Precalc) (write : Bool) : BitVec 2 := if write then p.mem.paWrite else p.mem.paRead

section Strategies

variable {p : Precalc} {write : Bool}

theorem planeAddr_planar (h : paSelector p write = 0) (a : BitVec 32) :
    planeAddr p write a = .ok (paPlanar a) := by
  rw [planeAddr, ← paSelector, h]
  rfl

theorem planeAddr_chain4 (h : paSelector p write = 1) (a : BitVec 32) :
    planeAddr p write a = .ok (paChain4 a) := by
  rw [planeAddr, ← paSelector, h]
  rfl

theorem planeAddr_oddeven (h : paSelector p write = 2) (a : BitVec 32) :
    planeAddr p write a = paOddevenIn p p.crtc.wrapSel a := by
  rw [planeAddr, ← paSelector, h]
  rfl

theorem planeAddr_linear (h : paSelector p write = 3) (a : BitVec 32) :
    planeAddr p write a = .ok (paLinear a) := by
  rw [planeAddr, ← paSelector, h]
  rfl

/-- Odd/even has an answer under a legal address mode (R273, log 12). -/
theorem paOddevenIn_ok (h : p.crtc.addrMode ≠ 3) (wrap : Bool) (a : BitVec 32) :
    ∃ r, paOddevenIn p wrap a = .ok r := by
  obtain ⟨mode, hm⟩ := addrModeOf_legal h
  exact ⟨_, bind_of_ok hm _⟩

/-- Every strategy but odd/even under the reserved address mode has an answer (R270, log 12). -/
theorem planeAddr_ok (h : paSelector p write ≠ 2 ∨ p.crtc.addrMode ≠ 3) (a : BitVec 32) :
    ∃ r, planeAddr p write a = .ok r := by
  rcases twoBit_cases (paSelector p write) with h0 | h1 | h2 | h3
  · exact ⟨_, planeAddr_planar h0 a⟩
  · exact ⟨_, planeAddr_chain4 h1 a⟩
  · rw [planeAddr_oddeven h2]
    exact paOddevenIn_ok (h.resolve_left (not_not.2 h2)) _ a
  · exact ⟨_, planeAddr_linear h3 a⟩

end Strategies

/-- PADEC returns the pair that the strategy of its direction answers (R154). -/
theorem exec_padec {s : State} {write : Bool} {a : BitVec 32} {r : BitVec 4 × BitVec 32}
    (h : planeAddr s.P write a = .ok r) : exec (.padec write a) s = .next (returnPlaneAddr r s) := by
  show outcome (planeAddr s.P write a >>= _) = _
  rw [bind_of_ok h]
  rfl

/-- Settles O24: strategy by strategy. -/
theorem padecUsesSelectedStrategy : Obligations.PadecUsesSelectedStrategy := by
  unfold Obligations.PadecUsesSelectedStrategy
  refine ⟨decode_padec, fun s write a => ⟨fun h => ?_, fun h => ?_, fun h => ?_, fun h => ?_, fun h => ?_⟩⟩
  · exact exec_padec (planeAddr_planar h a)
  · exact exec_padec (planeAddr_chain4 h a)
  · show outcome (planeAddr s.P write a >>= _) = outcome (paOddevenIn s.P s.P.crtc.wrapSel a >>= _)
    rw [planeAddr_oddeven h]
  · exact exec_padec (planeAddr_linear h a)
  · obtain ⟨r, hr⟩ := planeAddr_ok h a
    exact ⟨r.1, r.2, exec_padec hr⟩

/-! ### PENPOS -/

section PenWord

variable (above : BitVec 4) (y : BitVec 12) (between : BitVec 1) (x : BitVec 15)

/-- The low 15 bits of PENPOS's operand are x, whatever lies above (R155). -/
theorem penOperand_x : (above ++ y ++ between ++ x).extractLsb' 0 15 = x :=
  BitVec.extractLsb'_append_eq_right

/-- Bits 27 to 16 of PENPOS's operand are y, whatever lies around (R155). -/
theorem penOperand_y : (above ++ y ++ between ++ x).extractLsb' 16 12 = y := by
  ext k hk
  simp [BitVec.getElem_extractLsb']
  grind

end PenWord

/-- Settles O27: the two fields of the operand, and the update of the pen. -/
theorem penposSetsPen : Obligations.PenposSetsPen := by
  unfold Obligations.PenposSetsPen
  refine ⟨fun a b c above y between x => ?_, fun s x y => rfl⟩
  refine (decodeHop_penpos (hopOp_hopWord ..)).trans ?_
  rw [hopD_hopWord, penOperand_x, penOperand_y]

end Sys2Proof.Machine
end

section
/-! PROOF. Register writes, RECALC, register reads and the DAC's palette access (R141 to R145, R160 to R164, R172 to
R175, R182). -/

namespace Sys2Proof.Machine

/-! ### RECALC -/

/-- Only section 0 names the tag ALL (R115). -/
theorem recalcTag_ne_all {sec : Byte} (h : sec ≠ 0) (idx : Byte) (whole : Bool) :
    recalcTag sec idx whole ≠ some .all := by
  unfold recalcTag
  split_ifs <;> simp_all

/-- Without a hook, and `P` current, RECALC with any tag but ALL changes nothing (R174). -/
theorem exec_recalc_current {s : State} (hx : s.par.precalcExt = false) (hp : PrecalcCurrent s) {sec : Byte}
    (hs : sec ≠ 0) (idx : Byte) (whole : Bool) : exec (.recalc sec idx whole) s = .next s := by
  have htag := recalcTag_ne_all hs idx whole
  simp only [exec, execRecalc]
  cases ht : recalcTag sec idx whole with
  | none => rfl
  | some t =>
    have hne : t ≠ .all := fun e => htag (by rw [ht, e])
    simp only [recompute_current t s hx hp, if_neg hne]

/-- A second recompute with the tag ALL finds `P` derived and both tables built from it (R175). -/
theorem recompute_all_twice {s : State} (hx : s.par.precalcExt = false) :
    recompute .all (recompute .all s) = recompute .all s := by
  have hP : (recompute .all s).P = derive (recompute .all s).reg := by
    rw [recompute_eq _ s hx]
    exact recomputeBlocks_all s.reg s.P
  have hx' : (recompute .all s).par.precalcExt = false := by rwa [recompute_par]
  obtain ⟨hh, hv⟩ := (recompute_tables .all s).resolve_right fun h => h.1 rfl
  rw [recompute_current .all _ hx' hP, if_pos rfl, ← hh, ← hv]

/-- Settles O16: by the recompute of a current `P`, and the recompute with the tag ALL after itself. -/
theorem recalculation : Obligations.Recalculation := by
  unfold Obligations.Recalculation
  refine ⟨fun s sec idx whole hx hp hs => exec_recalc_current hx hp hs idx whole, fun s idx whole hx hp => ?_,
    fun s idx idx' whole whole' hx => ⟨recompute .all s, rfl, ?_⟩⟩
  · exact congrArg Host.Outcome.next ((recompute_current .all s hx hp).trans (if_pos rfl))
  · exact congrArg Host.Outcome.next (recompute_all_twice hx)

/-! ### The recompute after a register write -/

/-- After one register was written while `P` was current, a recompute with its tag derives `P` again, builds the tables
if a breakpoint changed, and clears the latches if a mode did (R172, R173, R178, R182). -/
theorem recompute_register {s : State} {m : Memory} {sec idx : Byte} (hx : s.par.precalcExt = false)
    (hp : PrecalcCurrent s)
    (hm : ∀ sec' idx', ¬(sec' = sec ∧ idx' = idx) → regAt m sec' idx' = regAt s.reg sec' idx') :
    recompute (.register sec idx) (s.setReg m) = { s with
      reg := m
      P := derive m
      htab := if (derive m).h = s.P.h ∧ (derive m).v = s.P.v then s.htab else some (derive m).h
      vtab := if (derive m).h = s.P.h ∧ (derive m).v = s.P.v then s.vtab else some (derive m).v
      S := if (derive m).dac.dacMode ≠ s.P.dac.dacMode ∨ (derive m).attr.attrMode ≠ s.P.attr.attrMode then
        { s.S with dacCount := 0, dacLatch := 0, attrLatch := 0 } else s.S } := by
  have hnew : recomputeBlocks (.register sec idx) m s.P = derive m := by
    rw [hp]
    exact recomputeBlocks_current hm
  have htime : needTiming (.register sec idx) s.P (derive m) = true ↔
      ¬((derive m).h = s.P.h ∧ (derive m).v = s.P.v) := by
    rw [needTiming_register, not_and_or, ne_comm, ne_comm (a := s.P.v)]
  rw [recompute_eq _ (s.setReg m) hx]
  simp only [State.setReg_reg, State.setReg_P, hnew, htime, ite_not, ne_comm (a := s.P.dac.dacMode),
    ne_comm (a := s.P.attr.attrMode)]
  rfl

/-- A recompute for one register whose blocks change no breakpoint and no mode sets `P` and does nothing else (R172). -/
theorem recompute_register_setP {s : State} {sec idx : Byte} {p : Precalc} (hx : s.par.precalcExt = false)
    (hp : recomputeBlocks (.register sec idx) s.reg s.P = p) (hh : p.h = s.P.h) (hv : p.v = s.P.v)
    (hd : p.dac.dacMode = s.P.dac.dacMode) (ha : p.attr.attrMode = s.P.attr.attrMode) :
    recompute (.register sec idx) s = s.setP p := by
  rw [recompute_eq _ s hx, hp]
  simp [needTiming_register, hh, hv, hd, ha, State.setP]

/-! ### Register writes -/

/-- A write to an index that names no register does not apply (R141). -/
theorem writeApplies_invalid {sec idx : Byte} (h : validIndex sec idx = false) (s : State) :
    writeApplies sec idx s = false := by
  rw [writeApplies, h, Bool.false_and]

/-- A write to a valid index outside the guarded timing registers applies (R42, R141). -/
theorem writeApplies_unguarded {sec idx : Byte} {s : State} (hv : validIndex sec idx = true)
    (hg : ¬(sec = 1 ∧ idx.toNat ≤ 0x1B ∧ (regAt s.reg 1 0x29).getLsbD 7 = true)) :
    writeApplies sec idx s = true := by
  have hfree : (isProtected sec idx && timingGuard s.reg) = false := by
    refine Bool.eq_false_iff.2 fun h => hg ?_
    simp only [isProtected, timingGuard, Bool.and_eq_true, beq_iff_eq, decide_eq_true_eq] at h
    obtain ⟨⟨hsec, hidx⟩, hguard⟩ := h
    exact ⟨hsec, hidx, hguard⟩
  rw [writeApplies, hv, hfree]
  rfl

/-- An applied write of a register without side effects stores its defined bits and recomputes (R141, R142). -/
theorem writeRegister_plain {sec idx : Byte} {s : State} (ha : writeApplies sec idx s = true)
    (hn : ¬(sec = 5 ∧ 1 ≤ idx.toNat ∧ idx.toNat ≤ 3)) (val : Byte) :
    writeRegister sec idx val s = (recompute (.register sec idx)
      (s.setReg (s.reg.write (regKey sec idx) (val &&& definedMask s.par.dacBits sec idx)))).setResult
        (.applied true) := by
  rw [writeRegister, if_pos ha, storeRegister_plain sec idx val s hn]

/-- Settles O11: an invalid index is ignored; else the store of the defined bits and the recompute with its tag. -/
theorem registerWrite : Obligations.RegisterWrite := by
  unfold Obligations.RegisterWrite
  refine ⟨fun s sec idx val hv => execWrreg_ignored (writeApplies_invalid hv s) val,
    fun s sec idx val hwf hx hp hv hg hn => ?_⟩
  have hstore := writeRegister_plain (writeApplies_unguarded hv hg) hn val
  rw [recompute_register hx hp fun sec' idx' hne => regAt_write_other s.reg _ hne] at hstore
  refine ⟨_, congrArg Host.Outcome.next hstore, fun sec' idx' => regAt_write _ _ _ _ _ _ hwf, rfl, ?_,
    rfl, rfl, rfl⟩
  dsimp only [State.setResult]
  split_ifs
  · exact ⟨rfl, rfl⟩
  · exact ⟨rfl, rfl⟩

/-! ### The DAC index, mask and data rows -/

/-- A write to DAC 1 or 2 reaches no block of the recompute (R161, R162, R172). -/
theorem recompute_dac_unread {s : State} (hx : s.par.precalcExt = false) {idx : Byte} (hi : dacDerives idx = false) :
    recompute (.register secDac idx) s = s := by
  have hp : recomputeBlocks (.register secDac idx) s.reg s.P = s.P := by
    rw [recomputeBlocks_dac, hi]
    rfl
  exact recompute_register_setP hx hp rfl rfl rfl rfl

/-- DACRIDX stores the read index and clears the read component counter (R161). -/
theorem writeRegister_dacridx {s : State} (hx : s.par.precalcExt = false) (val : Byte) :
    writeRegister secDac 1 val s = { s with
      reg := s.reg.write (regKey secDac 1) val
      dacs := { s.dacs with ridx := val, rsub := 0 }
      result := .applied true } := by
  rw [writeRegister_dac 1 val s rfl, recompute_dac_unread (s := storeRegister secDac 1 val s) hx rfl]
  rfl

/-- DACWIDX stores the write index and clears the write component counter (R162). -/
theorem writeRegister_dacwidx {s : State} (hx : s.par.precalcExt = false) (val : Byte) :
    writeRegister secDac 2 val s = { s with
      reg := s.reg.write (regKey secDac 2) val
      dacs := { s.dacs with widx := val, wsub := 0 }
      result := .applied true } := by
  rw [writeRegister_dac 2 val s rfl, recompute_dac_unread (s := storeRegister secDac 2 val s) hx rfl]
  rfl

/-- A write to DAC 0 gives the DAC block the new mask (R46, R160). -/
theorem deriveDacCtl_write_mask {m : Memory} (hwf : m.wf = true) (val : Byte) :
    deriveDacCtl (m.write (regKey secDac 0) val) = { deriveDacCtl m with dacMask := val } := by
  simp [deriveDacCtl, regAt_write _ _ _ _ _ _ hwf]

/-- A write to DAC 3, which the DAC block does not read, leaves the block as it was (R46, R163). -/
theorem deriveDacCtl_write_data (m : Memory) (val : Byte) :
    deriveDacCtl (m.write (regKey secDac 3) val) = deriveDacCtl m := by
  simp [deriveDacCtl, regAt_write_other]

/-- DACMASK stores the mask in its register and in `P` (R160). -/
theorem writeRegister_dacmask {s : State} (hwf : s.reg.wf = true) (hx : s.par.precalcExt = false)
    (hp : PrecalcCurrent s) (val : Byte) :
    writeRegister secDac 0 val s = { s with
      reg := s.reg.write (regKey secDac 0) val
      P := { s.P with dac := { s.P.dac with dacMask := val } }
      result := .applied true } := by
  have hmask : val &&& definedMask s.par.dacBits secDac 0 = val := BitVec.and_allOnes
  have hdac : s.P.dac = deriveDacCtl s.reg := congrArg Precalc.dac hp
  have hblocks : recomputeBlocks (.register secDac 0) (s.reg.write (regKey secDac 0) val) s.P =
      { s.P with dac := { s.P.dac with dacMask := val } } := by
    rw [recomputeBlocks_dac, deriveDacCtl_write_mask hwf, ← hdac]
    rfl
  rw [writeRegister_dac 0 val s rfl, storeRegister_plain secDac 0 val s (by decide), hmask,
    recompute_register_setP (s := s.setReg (s.reg.write (regKey secDac 0) val)) hx hblocks rfl rfl rfl rfl]
  rfl

/-- DACWDATA stores one component, in its register and in the palette, and steps the write counters (R163). -/
theorem writeRegister_dacwdata {s : State} (hx : s.par.precalcExt = false) (hp : PrecalcCurrent s)
    (hw : s.dacs.wsub ≠ 3) (val : Byte) :
    writeRegister secDac 3 val s = { s with
      reg := s.reg.write (regKey secDac 3) (val &&& dacMaskOf s.par.dacBits)
      pal := s.pal.write (palKey s.dacs.widx s.dacs.wsub.toNat) (val &&& dacMaskOf s.par.dacBits)
      dacs := if s.dacs.wsub = 2 then { s.dacs with wsub := 0, widx := s.dacs.widx + 1 }
        else { s.dacs with wsub := s.dacs.wsub + 1 }
      result := .applied true } := by
  have hdac : s.P.dac = deriveDacCtl s.reg := congrArg Precalc.dac hp
  have hstore : storeRegister secDac 3 val s = dacWriteData val s := rfl
  have hblocks : recomputeBlocks (.register secDac 3)
      (s.reg.write (regKey secDac 3) (val &&& dacMaskOf s.par.dacBits)) s.P = s.P := by
    rw [recomputeBlocks_dac, deriveDacCtl_write_data, ← hdac]
    rfl
  have hrec : recompute (.register secDac 3) (dacWriteData val s) = dacWriteData val s := by
    rw [dacWriteData_eq val s hw]
    exact recompute_register_setP (p := s.P) hx hblocks rfl rfl rfl rfl
  rw [writeRegister_dac 3 val s rfl, hstore, hrec, dacWriteData_eq val s hw]
  rfl

/-- Settles O14: the three rows as updates; the effective colours look at the mask in `P`. -/
theorem dacMaskAndIndexWrites : Obligations.DacMaskAndIndexWrites := by
  unfold Obligations.DacMaskAndIndexWrites
  intro s val hwf hx
  refine ⟨fun hp => ⟨_, congrArg Host.Outcome.next (writeRegister_dacmask hwf hx hp val), ?_, rfl, fun i => rfl⟩,
    ⟨_, congrArg Host.Outcome.next (writeRegister_dacridx hx val), ?_, rfl⟩,
    ⟨_, congrArg Host.Outcome.next (writeRegister_dacwidx hx val), ?_, rfl⟩⟩
  all_goals exact fun sec idx => regAt_write _ _ _ _ _ _ hwf

/-! ### Palette components -/

/-- Reading any palette component after a write to a canonical palette. -/
theorem palAt_write {m : Memory} (hwf : m.wf = true) (i j : Byte) {p q : Nat} (hp : p ≤ 3) (hq : q ≤ 3) (v : Byte) :
    palAt (m.write (palKey i p) v) j q = if j = i ∧ q = p then v else palAt m j q := by
  simp only [palAt, Memory.read_write m _ _ _ hwf, palKey_inj hq hp]

/-- Settles O13: the row as an update; the colour stages look at the parameters and `P`, which it keeps. -/
theorem dacDataWrite : Obligations.DacDataWrite := by
  unfold Obligations.DacDataWrite
  intro s val hc hx hp hw
  obtain ⟨hreg, hpal, -⟩ := hc
  have hsub : s.dacs.wsub.toNat ≤ 3 := Nat.le_of_lt_succ s.dacs.wsub.isLt
  refine ⟨_, congrArg Host.Outcome.next (writeRegister_dacwdata hx hp hw val), fun i comp hcomp => ?_,
    fun sec idx => ?_, rfl, rfl, rfl, fun i => ?_⟩
  · exact palAt_write hpal _ _ hsub (Nat.le_of_lt hcomp) _
  · exact regAt_write _ _ _ _ _ _ hreg
  · rw [effective, level_congr (s := s) rfl, mono_congr (s := s) rfl rfl]
    rfl

/-! ### Register reads -/

/-- The word of a register read (R111, R164). -/
theorem decode_read (sec idx c : Byte) (d : BitVec 32) :
    decode (.hop (hopWord 0x02 sec idx c d)) = .ok (if sec = 5 ∧ idx = 3 then .dacrdata else .rdreg sec idx) := by
  refine (decodeHop_read (hopOp_hopWord ..)).trans ?_
  rw [hopA_hopWord, hopB_hopWord]
  rfl

/-- DACRDATA returns the component the read counters name and steps them (R164). -/
theorem exec_dacrdata (s : State) : exec .dacrdata s = .next { s with
    result := .byte (palAt s.pal s.dacs.ridx s.dacs.rsub.toNat)
    dacs := if s.dacs.rsub = 2 then { s.dacs with rsub := 0, ridx := s.dacs.ridx + 1 }
      else { s.dacs with rsub := s.dacs.rsub + 1 } } := by
  show Host.Outcome.next (dacReadData s) = _
  rw [dacReadData]
  split_ifs <;> rfl

/-- A read of an index that names no register (R143, log 25). -/
theorem exec_rdreg_undefined {sec idx : Byte} (hv : validIndex sec idx = false) (s : State) :
    exec (.rdreg sec idx) s = .next (s.setResult (.byte s.par.undefinedRead)) := by
  simp only [exec, execRdreg, readRegister, hv, Bool.false_eq_true, if_false]

/-- A read of a register kept in the register file alone (R143). -/
theorem exec_rdreg_plain {sec idx : Byte} (hv : validIndex sec idx = true) (h1 : ¬(sec = 5 ∧ idx = 1))
    (h2 : ¬(sec = 5 ∧ idx = 2)) (h3 : ¬(sec = 5 ∧ idx = 3)) (s : State) :
    exec (.rdreg sec idx) s = .next (s.setResult (.byte (regAt s.reg sec idx))) := by
  simp only [exec, execRdreg, readRegister, hv, if_true]
  exact congrArg Host.Outcome.next ((if_neg h1).trans ((if_neg h2).trans (if_neg h3)))

/-- Settles O12: the word, the read row by row, and DACRDATA at each component. -/
theorem registerRead : Obligations.RegisterRead := by
  unfold Obligations.RegisterRead
  refine ⟨decode_read, fun s sec idx => ?_, fun s h => ?_, fun s h => ?_, fun s h => ?_⟩
  · split_ifs with hv h1 h2 h3
    · exact exec_rdreg_undefined hv s
    · obtain ⟨rfl, rfl⟩ := h1
      rfl
    · obtain ⟨rfl, rfl⟩ := h2
      rfl
    · obtain ⟨rfl, rfl⟩ := h3
      rfl
    · exact exec_rdreg_plain (Bool.not_eq_false _ ▸ hv) h1 h2 h3 s
  all_goals
    rw [exec_dacrdata, h]
    rfl

/-! ### The round trip through a palette entry -/

/-- An operation leaves this palette and these access counters, and answers this result (R47, R57). -/
structure PaletteStep (i : Instr) (s t : State) (pal : Memory) (dacs : Dacs) (r : Result) : Prop where
  next : exec i s = .next t
  par : t.par = s.par
  pal : t.pal = pal
  dacs : t.dacs = dacs
  result : t.result = r

/-- A palette access at the head of a run. -/
theorem PaletteStep.run {i : Instr} {is : List Instr} {s t u : State} {pal : Memory} {dacs : Dacs} {r : Result}
    {rs : List Result} (h : PaletteStep i s t pal dacs r) (h' : runOps is t = .ok (u, rs)) :
    runOps (i :: is) s = .ok (u, r :: rs) := by
  rw [runOps_cons_next h.next, bind_of_ok h', h.result]
  rfl

/-- A write to a DAC register leaves the palette and the counters as its store does, hook or not (R160 to R163). -/
theorem paletteStep_write {i : Instr} {idx val : Byte} {s : State}
    (hi : exec i s = .next (writeRegister secDac idx val s)) (hv : validIndex secDac idx = true) :
    ∃ t, PaletteStep i s t (storeRegister secDac idx val s).pal (storeRegister secDac idx val s).dacs
      (.applied true) := by
  have hpar : (storeRegister secDac idx val s).par = s.par := by
    obtain ⟨_, _, _, e⟩ := storeRegister_frame secDac idx val s
    rw [e]
  rw [writeRegister_dac idx val s hv] at hi
  exact ⟨_, hi, by simp [hpar], by simp, by simp, by simp⟩

theorem paletteStep_dacridx (val : Byte) (s : State) :
    ∃ t, PaletteStep (.dacridx val) s t s.pal { s.dacs with ridx := val, rsub := 0 } (.applied true) :=
  paletteStep_write (idx := 1) (val := val) (s := s) rfl rfl

theorem paletteStep_dacwidx (val : Byte) (s : State) :
    ∃ t, PaletteStep (.dacwidx val) s t s.pal { s.dacs with widx := val, wsub := 0 } (.applied true) :=
  paletteStep_write (idx := 2) (val := val) (s := s) rfl rfl

section DataAccess

variable {s : State} {wi ri : Byte} {wk rk : BitVec 2} (hd : s.dacs = ⟨wi, wk, ri, rk⟩)
include hd

/-- A data write at a component of an entry (R163). -/
theorem paletteStep_dacwdata (val : Byte) (hw : wk ≠ 3) : ∃ t, PaletteStep (.dacwdata val) s t
    (s.pal.write (palKey wi wk.toNat) (val &&& dacMaskOf s.par.dacBits))
    (if wk = 2 then ⟨wi + 1, 0, ri, rk⟩ else ⟨wi, wk + 1, ri, rk⟩) (.applied true) := by
  have hstore : storeRegister secDac 3 val s = dacWriteData val s := rfl
  have hw : s.dacs.wsub ≠ 3 := by rwa [hd]
  obtain ⟨t, ht⟩ := paletteStep_write (i := .dacwdata val) (s := s) rfl rfl
  rw [hstore, dacWriteData_eq val s hw, hd] at ht
  exact ⟨t, ht⟩

/-- A data read at a component of an entry (R164). -/
theorem paletteStep_dacrdata : ∃ t, PaletteStep .dacrdata s t s.pal
    (if rk = 2 then ⟨wi, wk, ri + 1, 0⟩ else ⟨wi, wk, ri, rk + 1⟩) (.byte (palAt s.pal ri rk.toNat)) := by
  have he := exec_dacrdata s
  rw [hd] at he
  exact ⟨_, he, rfl, rfl, rfl, rfl⟩

end DataAccess

/-- The three components of one entry, cut to `DAC_BITS` and stored (R163). -/
def writtenEntry (m : Memory) (bits : DacBits) (i r g b : Byte) : Memory :=
  ((m.write (palKey i 0) (r &&& dacMaskOf bits)).write (palKey i 1) (g &&& dacMaskOf bits)).write (palKey i 2)
    (b &&& dacMaskOf bits)

/-- The components of a written entry are the bytes that were stored. -/
theorem palAt_writtenEntry {m : Memory} (hwf : m.wf = true) (bits : DacBits) (i r g b : Byte) :
    palAt (writtenEntry m bits i r g b) i 0 = r &&& dacMaskOf bits ∧
    palAt (writtenEntry m bits i r g b) i 1 = g &&& dacMaskOf bits ∧
    palAt (writtenEntry m bits i r g b) i 2 = b &&& dacMaskOf bits := by
  have h1 := Memory.wf_write m (palKey i 0) (r &&& dacMaskOf bits) hwf
  have h2 := Memory.wf_write _ (palKey i 1) (g &&& dacMaskOf bits) h1
  simp [writtenEntry, palAt_write, hwf, h1, h2]

/-- A write index and three data writes store an entry, whatever runs after them (R162, R163). -/
theorem runOps_writeEntry (s : State) (i r g b : Byte) : ∃ t, t.pal = writtenEntry s.pal s.par.dacBits i r g b ∧
    ∀ is u rs, runOps is t = .ok (u, rs) →
      runOps (.dacwidx i :: .dacwdata r :: .dacwdata g :: .dacwdata b :: is) s =
        .ok (u, .applied true :: .applied true :: .applied true :: .applied true :: rs) := by
  obtain ⟨s0, e0⟩ := paletteStep_dacwidx i s
  obtain ⟨s1, e1⟩ := paletteStep_dacwdata e0.dacs r (by decide)
  obtain ⟨s2, e2⟩ := paletteStep_dacwdata e1.dacs g (by decide)
  obtain ⟨s3, e3⟩ := paletteStep_dacwdata e2.dacs b (by decide)
  refine ⟨s3, ?_, fun is u rs h => e0.run (e1.run (e2.run (e3.run h)))⟩
  rw [e3.pal, e2.pal, e1.pal, e0.pal, e2.par, e1.par, e0.par]
  rfl

/-- A read index and three data reads answer the components of an entry (R161, R164). -/
theorem runOps_readEntry (s : State) (i : Byte) : ∃ t, runOps [.dacridx i, .dacrdata, .dacrdata, .dacrdata] s =
    .ok (t, [.applied true, .byte (palAt s.pal i 0), .byte (palAt s.pal i 1), .byte (palAt s.pal i 2)]) := by
  obtain ⟨s0, e0⟩ := paletteStep_dacridx i s
  obtain ⟨s1, e1⟩ := paletteStep_dacrdata e0.dacs
  obtain ⟨s2, e2⟩ := paletteStep_dacrdata e1.dacs
  obtain ⟨s3, e3⟩ := paletteStep_dacrdata e2.dacs
  rw [e2.pal, e1.pal, e0.pal] at e3
  rw [e1.pal, e0.pal] at e2
  rw [e0.pal] at e1
  exact ⟨s3, e0.run (e1.run (e2.run (e3.run rfl)))⟩

/-- Settles O15: the entry is stored, and what is read is the stored entry. -/
theorem dacRoundTrip : Obligations.DacRoundTrip := by
  unfold Obligations.DacRoundTrip
  intro s i r g b hwf
  obtain ⟨t, hpal, hwrite⟩ := runOps_writeEntry s i r g b
  obtain ⟨u, hread⟩ := runOps_readEntry t i
  obtain ⟨hr, hg, hb⟩ := palAt_writtenEntry hwf s.par.dacBits i r g b
  rw [hpal, hr, hg, hb] at hread
  exact ⟨u, hwrite _ u _ hread⟩

end Sys2Proof.Machine
end

section
/-! PROOF. `P` and the timing tables between any two steps, after a register write and after RECALC ALL (R112, R172,
R173, R176, R178). -/

namespace Sys2Proof.Machine

/-! ### What a register store leaves alone -/

@[simp] theorem storeRegister_par (sec idx val : Byte) (s : State) : (storeRegister sec idx val s).par = s.par := by
  obtain ⟨reg, pal, dacs, e⟩ := storeRegister_frame sec idx val s
  rw [e]

@[simp] theorem storeRegister_P (sec idx val : Byte) (s : State) : (storeRegister sec idx val s).P = s.P := by
  obtain ⟨reg, pal, dacs, e⟩ := storeRegister_frame sec idx val s
  rw [e]

@[simp] theorem storeRegister_htab (sec idx val : Byte) (s : State) :
    (storeRegister sec idx val s).htab = s.htab := by
  obtain ⟨reg, pal, dacs, e⟩ := storeRegister_frame sec idx val s
  rw [e]

@[simp] theorem storeRegister_vtab (sec idx val : Byte) (s : State) :
    (storeRegister sec idx val s).vtab = s.vtab := by
  obtain ⟨reg, pal, dacs, e⟩ := storeRegister_frame sec idx val s
  rw [e]

@[simp] theorem storeRegister_epoch (sec idx val : Byte) (s : State) :
    (storeRegister sec idx val s).epoch = s.epoch := by
  obtain ⟨reg, pal, dacs, e⟩ := storeRegister_frame sec idx val s
  rw [e]

/-- A register write is ignored but for its answer, or stores a valid register and recomputes with its tag (R141). -/
theorem writeRegister_cases (sec idx val : Byte) (s : State) :
    writeRegister sec idx val s = s.setResult (.applied false) ∨
      validIndex sec idx = true ∧ writeRegister sec idx val s =
        (recompute (.register sec idx) (storeRegister sec idx val s)).setResult (.applied true) := by
  unfold writeRegister
  split_ifs with ha
  · exact .inr ⟨(Bool.and_eq_true_iff.1 ha).1, rfl⟩
  · exact .inl rfl

@[simp] theorem writeRegister_par (sec idx val : Byte) (s : State) : (writeRegister sec idx val s).par = s.par := by
  obtain ⟨reg, pal, dacs, P, h, v, r, res, e⟩ := writeRegister_frame sec idx val s
  rw [e]

/-- A register write keeps the register file canonical (R40, R141). -/
theorem writeRegister_reg_wf {s : State} (hwf : s.reg.wf = true) (sec idx val : Byte) :
    (writeRegister sec idx val s).reg.wf = true := by
  obtain e | ⟨hv, e⟩ := writeRegister_cases sec idx val s <;> rw [e]
  · exact hwf
  · rw [State.setResult_reg, recompute_reg, storeRegister_reg sec idx val s hv]
    exact Memory.wf_write _ _ _ hwf

/-! ### The tables -/

/-- Tables in step are a property of `P` and the two tables. -/
theorem TablesCurrent.congr {s t : State} (h : TablesCurrent s) (hP : t.P = s.P) (hh : t.htab = s.htab)
    (hv : t.vtab = s.vtab) : TablesCurrent t := by
  simpa only [TablesCurrent, hP, hh, hv] using h

/-- A recompute, hook or not, keeps the tables in step with `P` (R172, R178). -/
theorem TablesCurrent.recompute {s : State} (h : TablesCurrent s) (tag : Tag) : TablesCurrent (recompute tag s) := by
  obtain hbuilt | ⟨-, hh, hv, hPh, hPv⟩ := recompute_tables tag s
  · exact .inr hbuilt
  · simpa only [TablesCurrent, hh, hv, hPh, hPv] using h

/-- A register write, hook or not, keeps the tables in step with `P` (R141, R178). -/
theorem TablesCurrent.writeRegister {s : State} (h : TablesCurrent s) (sec idx val : Byte) :
    TablesCurrent (writeRegister sec idx val s) := by
  obtain e | ⟨-, e⟩ := writeRegister_cases sec idx val s <;> rw [e]
  · exact h.congr rfl rfl rfl
  · have hstore : TablesCurrent (storeRegister sec idx val s) := h.congr (by simp) (by simp) (by simp)
    exact (hstore.recompute (.register sec idx)).congr rfl rfl rfl

/-- The tag ALL builds both tables from the `P` it leaves, hook or not (R178). -/
theorem recompute_all_tables (s : State) :
    (recompute .all s).htab = some (recompute .all s).P.h ∧ (recompute .all s).vtab = some (recompute .all s).P.v :=
  (recompute_tables .all s).resolve_right fun h => h.1 rfl

/-! ### `P` -/

/-- A recompute without a hook keeps a current `P` (R174). -/
theorem PrecalcCurrent.recompute {s : State} (h : PrecalcCurrent s) (hx : s.par.precalcExt = false) (tag : Tag) :
    PrecalcCurrent (recompute tag s) := by
  rw [recompute_current tag s hx h]
  split_ifs
  · exact h
  · exact h

/-- A register write without a hook keeps `P` derived from the registers: the store touches the tagged register only
(R141, R173). -/
theorem PrecalcCurrent.writeRegister {s : State} (h : PrecalcCurrent s) (hx : s.par.precalcExt = false)
    (sec idx val : Byte) : PrecalcCurrent (writeRegister sec idx val s) := by
  obtain e | ⟨hv, e⟩ := writeRegister_cases sec idx val s <;> rw [e]
  · exact h
  · have hblocks : recomputeBlocks (.register sec idx) (storeRegister sec idx val s).reg s.P =
        derive (storeRegister sec idx val s).reg := by
      rw [storeRegister_reg sec idx val s hv, h]
      exact recomputeBlocks_current fun sec' idx' hne => regAt_write_other s.reg _ hne
    show (Machine.recompute _ _).P = derive (Machine.recompute _ _).reg
    rw [recompute_eq _ _ (by rwa [storeRegister_par]), storeRegister_P]
    exact hblocks

/-! ### Between any two steps -/

/-- No hook, a canonical register file, `P` derived from it, and tables in step with `P`. -/
def PrecalcSound (s : State) : Prop :=
  s.par.precalcExt = false ∧ s.reg.wf = true ∧ PrecalcCurrent s ∧ TablesCurrent s

namespace PrecalcSound

variable {s t : State}

/-- It is a property of the parameters, the register file, `P` and the tables. -/
theorem congr (h : PrecalcSound s) (hpar : t.par = s.par) (hreg : t.reg = s.reg) (hP : t.P = s.P)
    (hh : t.htab = s.htab) (hv : t.vtab = s.vtab) : PrecalcSound t := by
  simpa only [PrecalcSound, PrecalcCurrent, TablesCurrent, hpar, hreg, hP, hh, hv] using h

/-- A recompute keeps it, whatever its tag (R172). -/
theorem recompute (h : PrecalcSound s) (tag : Tag) : PrecalcSound (recompute tag s) := by
  obtain ⟨hx, hwf, hp, ht⟩ := h
  exact ⟨by rwa [recompute_par], by rwa [recompute_reg], hp.recompute hx tag, ht.recompute tag⟩

/-- A register write keeps it, applied or not (R141). -/
theorem writeRegister (h : PrecalcSound s) (sec idx val : Byte) : PrecalcSound (writeRegister sec idx val s) := by
  obtain ⟨hx, hwf, hp, ht⟩ := h
  exact ⟨by rwa [writeRegister_par], writeRegister_reg_wf hwf sec idx val, hp.writeRegister hx sec idx val,
    ht.writeRegister sec idx val⟩

/-- RESET leaves the zero register file, what it derives to, and tables never built (R380). -/
theorem resetDevice (h : PrecalcSound s) : PrecalcSound (resetDevice s) := by
  have hzero : Precalc.reset = derive [] := by decide
  exact ⟨h.1, rfl, hzero, .inl ⟨rfl, rfl⟩⟩

/-- An operation that does not own `P` writes no register either, so it leaves all of this alone (R20). -/
theorem of_groupsKept {i : Instr} (h : PrecalcSound s) (hi : writesPrecalc i = false) (hk : GroupsKept i s t) :
    PrecalcSound t := by
  have hr : writesRegisters i = false := by
    cases i
    case recalc => rfl
    all_goals exact hi
  obtain ⟨⟨hpar, -⟩, hreg, hprecalc, -⟩ := hk
  obtain ⟨hP, hh, hv⟩ := hprecalc hi
  exact h.congr hpar (hreg hr).1 hP hh hv

/-- Every operation keeps `P` and the tables sound: the owners of `P` one by one, the others by what they leave
alone. -/
theorem exec (hs : PrecalcSound s) (i : Instr) (h : exec i s = .next t) : PrecalcSound t := by
  by_cases hi : writesPrecalc i = false
  · exact hs.of_groupsKept hi (exec_groupsKept i s t h)
  cases i
  case reset => cases h; exact hs.resetDevice
  case wrreg => cases h; exact hs.writeRegister _ _ _
  case dacmask => cases h; exact hs.writeRegister _ _ _
  case dacridx => cases h; exact hs.writeRegister _ _ _
  case dacwidx => cases h; exact hs.writeRegister _ _ _
  case dacwdata => cases h; exact hs.writeRegister _ _ _
  case recalc sec idx whole =>
    cases h
    cases recalcTag sec idx whole with
    | none => exact hs
    | some tag => exact hs.recompute tag
  all_goals exact absurd rfl hi

end PrecalcSound

/-- Settles O57: a step changes nothing, or takes a turn, which leaves all of this alone, and runs at most one
operation. -/
theorem stepKeepsPrecalc : Obligations.StepKeepsPrecalc := by
  unfold Obligations.StepKeepsPrecalc
  intro s t hx hwf hp ht h
  have hs : PrecalcSound s := ⟨hx, hwf, hp, ht⟩
  have hturn (a : Nat) (rest : List Request) : PrecalcSound (s.takeTurn a rest) := hs.congr rfl rfl rfl rfl rfl
  obtain rfl | ⟨a, rest, rfl | ⟨i, hi⟩⟩ := step_cases h
  · exact hs
  · exact hturn a rest
  · exact (hturn a rest).exec i hi

/-! ### Incremental recompute against RECALC ALL -/

/-- Settles O17: the write leaves `P` current, so that RECALC ALL only builds the tables, from the `P` they were in
step with. -/
theorem recomputeConsistent : Obligations.RecomputeConsistent := by
  unfold Obligations.RecomputeConsistent
  intro s sec idx val _ hx hp
  obtain ⟨-, recalcAll, -⟩ := recalculation
  have hx' : (writeRegister sec idx val s).par.precalcExt = false := by rwa [writeRegister_par]
  have hp' : PrecalcCurrent (writeRegister sec idx val s) := hp.writeRegister hx sec idx val
  refine ⟨_, _, rfl, recalcAll _ 0 false hx' hp', rfl, hp', fun ht => ?_⟩
  obtain hzero | ⟨hh, hv⟩ := ht.writeRegister sec idx val
  · exact .inr hzero
  · exact .inl ⟨hh.symm, hv.symm⟩

/-! ### The rebuilt tables -/

/-- The seven bits of a built vertical table, which stand 8 places above an axis entry's (R112, R178). -/
theorem vtabAt_getLsbD_iff {s : State} {v : Breakpoints 12} (hs : s.vtab = some v) (r : BitVec 12) (k : Nat) :
    (vtabAt s r).getLsbD k = true ↔
      (k = 8 ∧ r = v.total) ∨ (k = 9 ∧ r = v.retraceStart) ∨ (k = 10 ∧ r = v.retraceEnd) ∨
      (k = 11 ∧ r = v.blankStart) ∨ (k = 12 ∧ r = v.blankEnd) ∨
      (k = 13 ∧ r < v.total ∧ v.displayStart ≤ r ∧ r < v.displayEnd) ∨
      (k = 14 ∧ r < v.total ∧ ¬(v.displayStart ≤ r ∧ r < v.displayEnd)) := by
  by_cases hk : 8 ≤ k
  · obtain ⟨j, rfl⟩ := Nat.exists_eq_add_of_le' hk
    rw [vtabAt_getLsbD hs, Nat.add_sub_cancel, decide_eq_true hk, Bool.true_and, axisWord_getLsbD]
    simp only [Nat.reduceEqDiff]
  · rw [vtabAt_low s r (Nat.lt_of_not_le hk)]
    simp only [Bool.false_eq_true, false_iff]
    omega

/-- Settles O18: RECALC ALL builds both tables from the `P` it leaves, and a built table has these bits. -/
theorem rebuiltTables : Obligations.RebuiltTables := by
  unfold Obligations.RebuiltTables
  intro s idx whole _
  obtain ⟨hh, hv⟩ := recompute_all_tables s
  refine ⟨recompute .all s, rfl, fun c k => ?_, fun r k => vtabAt_getLsbD_iff hv r k⟩
  rw [htabAt_getLsbD hh]
  exact axisWord_getLsbD _ c k

end Sys2Proof.Machine
end

section
/-! PROOF. The two consulted hooks: the last word on `P` (R185) and on every translated offset (R277), and what an
operation leaves without the first. -/

namespace Sys2Proof.Machine

/-! ### RECALC's tags -/

/-- RECALC of a section, or of a register that exists, recomputes with the tag it names (R115, R145). -/
theorem recalcTag_named {sec idx : Byte} {whole : Bool} (h1 : 1 ≤ sec.toNat) (h5 : sec.toNat ≤ 5)
    (hw : whole = true ∨ validIndex sec idx = true) :
    recalcTag sec idx whole = some (if whole then .wholeSection sec else .register sec idx) := by
  have h0 : sec ≠ 0 := by
    rintro rfl
    exact absurd h1 (by decide)
  rw [recalcTag, if_neg h0, if_neg (Nat.not_lt.2 h5)]
  split_ifs with hwhole hv
  · rfl
  · rfl
  · exact absurd hw (not_or.2 ⟨hwhole, hv⟩)

/-- A RECALC that names nothing recomputes nothing (R119, R145). -/
theorem recalcTag_unnamed {sec idx : Byte} {whole : Bool}
    (h : 5 < sec.toNat ∨ (sec ≠ 0 ∧ whole = false ∧ validIndex sec idx = false)) :
    recalcTag sec idx whole = none := by
  obtain h5 | ⟨h0, hwhole, hv⟩ := h
  · have h0 : sec ≠ 0 := by
      rintro rfl
      exact absurd h5 (by decide)
    rw [recalcTag, if_neg h0, if_pos h5]
  · rw [recalcTag, if_neg h0, hwhole, hv]
    exact ite_self _

/-- RECALC with a tag is the recompute with it (R145). -/
theorem exec_recalc_some {sec idx : Byte} {whole : Bool} {tag : Tag} (h : recalcTag sec idx whole = some tag)
    (s : State) : exec (.recalc sec idx whole) s = .next (recompute tag s) := by
  simp only [exec, execRecalc, h]

/-- RECALC without a tag changes nothing (R119, R145). -/
theorem exec_recalc_none {sec idx : Byte} {whole : Bool} (h : recalcTag sec idx whole = none) (s : State) :
    exec (.recalc sec idx whole) s = .next s := by
  simp only [exec, execRecalc, h]

/-! ### The last word on `P` -/

/-- An applied register write leaves `P` as the hook's answer on the derivation of the registers it leaves (R185). -/
theorem writeRegister_hook {sec idx : Byte} {s : State} (hx : s.par.precalcExt = true)
    (ha : writeApplies sec idx s = true) (val : Byte) :
    (writeRegister sec idx val s).result = .applied true ∧
      (writeRegister sec idx val s).P =
        Config.precalcExt s.epoch (.register sec idx) (derive (writeRegister sec idx val s).reg) := by
  have e : writeRegister sec idx val s =
      (recompute (.register sec idx) (storeRegister sec idx val s)).setResult (.applied true) := if_pos ha
  have hx' : (storeRegister sec idx val s).par.precalcExt = true := by rwa [storeRegister_par]
  rw [e]
  simp [recompute_hook _ _ hx']

/-! ### The same operation without the hook -/

/-- The state with the precalc-extension hook unplugged. -/
def withoutHook (s : State) : State := { s with par := { s.par with precalcExt := false } }

/-- Two states that differ in the parameters, `P` and the tables at most. -/
def SameBesidesPrecalc (t u : State) : Prop :=
  { t with par := u.par, P := u.P, htab := u.htab, vtab := u.vtab } = u

theorem SameBesidesPrecalc.setResult {t u : State} (h : SameBesidesPrecalc t u) (r : Result) :
    SameBesidesPrecalc (t.setResult r) (u.setResult r) := congrArg (State.setResult · r) h

theorem sameBesidesPrecalc_withoutHook (s : State) : SameBesidesPrecalc s (withoutHook s) := rfl

/-- The hook leaves the runtime registers alone (R185). -/
theorem runPrecalcExt_S (tag : Tag) (s : State) : (runPrecalcExt tag s).S = s.S := by
  simp only [runPrecalcExt, rebuildTimingTables]
  split_ifs <;> rfl

/-- Which latches a recompute clears is settled by its blocks, before the hook (R172, R182). -/
theorem recompute_S (tag : Tag) (s : State) : (recompute tag s).S =
    if s.P.dac.dacMode != (recomputeBlocks tag s.reg s.P).dac.dacMode ||
        s.P.attr.attrMode != (recomputeBlocks tag s.reg s.P).attr.attrMode then
      { s.S with dacCount := 0, dacLatch := 0, attrLatch := 0 } else s.S := by
  simp only [recompute, runPrecalcExt_S, rebuildTimingTables, clearLatches]
  split_ifs <;> rfl

/-- A recompute leaves, but for `P` and the tables, what it leaves without the hook (R185). -/
theorem recompute_withoutHook (tag : Tag) (s : State) :
    SameBesidesPrecalc (recompute tag s) (recompute tag (withoutHook s)) := by
  have hS : (recompute tag s).S = (recompute tag (withoutHook s)).S :=
    (recompute_S tag s).trans (recompute_S tag (withoutHook s)).symm
  obtain ⟨p, h, v, r, e⟩ := recompute_frame tag s
  obtain ⟨p', h', v', r', e'⟩ := recompute_frame tag (withoutHook s)
  rw [e, e'] at hS ⊢
  obtain rfl : r = r' := hS
  rfl

/-- A register store does not look at the hook (R141). -/
theorem storeRegister_withoutHook (sec idx val : Byte) (s : State) :
    storeRegister sec idx val (withoutHook s) = withoutHook (storeRegister sec idx val s) := by
  have hdacs : (withoutHook s).dacs = s.dacs := rfl
  simp only [storeRegister, dacWriteData, hdacs]
  split_ifs <;> rfl

/-- A register write leaves, but for `P` and the tables, what it leaves without the hook (R141, R185). -/
theorem writeRegister_withoutHook (sec idx val : Byte) (s : State) :
    SameBesidesPrecalc (writeRegister sec idx val s) (writeRegister sec idx val (withoutHook s)) := by
  have happly : writeApplies sec idx (withoutHook s) = writeApplies sec idx s := rfl
  simp only [writeRegister, happly, storeRegister_withoutHook]
  split_ifs
  · exact (recompute_withoutHook _ _).setResult _
  · exact (sameBesidesPrecalc_withoutHook s).setResult _

/-! ### The last word on a translated offset -/

/-- Bits below a value shifted by `j` are added to it, also where the value is cut to `m` bits. -/
theorem shifted_mod_or (a : Nat) {b j : Nat} (m : Nat) (hb : b < 2 ^ j) :
    (a * 2 ^ j % 2 ^ m) ||| b = a * 2 ^ j % 2 ^ m + b := by
  have hdvd : 2 ^ j ∣ a * 2 ^ j % 2 ^ m := by
    obtain h | h := le_total j m
    · exact (Nat.dvd_mod_iff (pow_dvd_pow 2 h)).2 (Nat.dvd_mul_left _ _)
    · rw [Nat.mod_eq_zero_of_dvd ((pow_dvd_pow 2 h).mul_left a)]
      exact Nat.dvd_zero _
  obtain ⟨q, hq⟩ := hdvd
  rw [hq, Nat.two_pow_add_eq_or_of_lt hb]

/-- The default offset of a mode as arithmetic (R276). -/
theorem defaultOffset_eq (m : Nat) (mode : AddrMode) (wrap : Bool) (a : Nat) :
    defaultOffset m mode wrap a = modeOffset m (addrModeCode mode) wrap a := by
  cases mode with
  | byte => rfl
  | word =>
    show (a * 2 ^ 1 % 2 ^ m) ||| addrBit a (if wrap then 15 else 13) = _
    rw [addrBit, Nat.toNat_testBit]
    exact shifted_mod_or (j := 1) a m (Nat.mod_lt _ (by decide))
  | dword => exact shifted_mod_or (j := 2) a m (Nat.mod_lt _ (by decide))

/-- A legal `P.addr_mode` is the code of a mode (R50, R277). -/
theorem addrModeOf_code {v : BitVec 2} (h : v ≠ 3) : ∃ mode, addrModeOf v = .ok mode ∧ addrModeCode mode = v := by
  obtain ⟨rfl, hm⟩ | ⟨rfl, hm⟩ | ⟨rfl, hm⟩ | ⟨rfl, -⟩ := addrModeOf_cases v
  · exact ⟨_, hm, rfl⟩
  · exact ⟨_, hm, rfl⟩
  · exact ⟨_, hm, rfl⟩
  · exact absurd rfl h

/-- With the address-wrap-override hook an offset is the hook's answer on the default one (R277). -/
theorem translateIn_hook {s : State} (hx : s.par.addrWrapOverride = true) (mode : AddrMode) (wrap : Bool) (a : Nat) :
    translateIn s mode wrap a = Config.addrWrapOverride s.epoch a (addrModeCode mode)
      (modeOffset s.par.memaddrBits (addrModeCode mode) wrap a) := by
  rw [translateIn, overrideOffset, if_pos hx, defaultOffset_eq]

/-- So is the offset of a fetch under a legal `P.addr_mode` (R276, R277). -/
theorem translate_hook {s : State} (hx : s.par.addrWrapOverride = true) (hm : s.P.crtc.addrMode ≠ 3) (a : Nat) :
    translate s a = .ok (Config.addrWrapOverride s.epoch a s.P.crtc.addrMode
      (modeOffset s.par.memaddrBits s.P.crtc.addrMode s.P.crtc.wrapSel a)) := by
  obtain ⟨mode, hmode, hcode⟩ := addrModeOf_code hm
  have h : translate s a = .ok (translateIn s mode s.P.crtc.wrapSel a) := by
    rw [translate, hmode]
    rfl
  rw [h, translateIn_hook hx, hcode]

/-- And what a translate row answers (R276, R277). -/
theorem returnOffset_hook {s : State} (hx : s.par.addrWrapOverride = true) (mode : AddrMode) (wrap : Bool)
    (addr : BitVec 32) : returnOffset mode wrap addr s = { s with
      result := .offset (Config.addrWrapOverride s.epoch (addr.toNat % 2 ^ s.par.memaddrBits) (addrModeCode mode)
        (modeOffset s.par.memaddrBits (addrModeCode mode) wrap (addr.toNat % 2 ^ s.par.memaddrBits))) } := by
  rw [returnOffset, translateIn_hook hx]
  rfl

/-- Settles O20: the hook's answer on `P` after a write, RECALC ALL and RECALC of what it names, with the tables in
step; the same operation without the hook; and the hook's answer on an offset. -/
theorem hooksConsulted : Obligations.HooksConsulted := by
  unfold Obligations.HooksConsulted
  refine ⟨fun s sec idx val hx hv hg => ?_, fun s val => ⟨rfl, rfl, rfl, rfl⟩, fun s idx whole hx => ?_,
    fun s sec idx whole hx h1 h5 hw => ?_, fun s sec idx whole h => exec_recalc_none (recalcTag_unnamed h) s,
    fun s sec idx val whole _ => List.forall_mem_cons.2 ⟨?_, List.forall_mem_singleton.2 ?_⟩,
    fun s hx => ⟨fun a hm => translate_hook hx hm a, ?_⟩⟩
  · obtain ⟨hres, hP⟩ := writeRegister_hook hx (writeApplies_unguarded hv hg) val
    exact ⟨_, rfl, hres, hP, fun ht => ht.writeRegister sec idx val⟩
  · obtain ⟨hh, hv⟩ := recompute_all_tables s
    exact ⟨_, rfl, recompute_hook .all s hx, hh, hv⟩
  · exact ⟨_, exec_recalc_some (recalcTag_named h1 h5 hw) s, recompute_hook _ s hx, fun ht => ht.recompute _⟩
  · exact ⟨_, _, rfl, rfl, writeRegister_withoutHook sec idx val s⟩
  · cases htag : recalcTag sec idx whole with
    | none => exact ⟨_, _, exec_recalc_none htag s, exec_recalc_none htag _, sameBesidesPrecalc_withoutHook s⟩
    | some tag => exact ⟨_, _, exec_recalc_some htag s, exec_recalc_some htag _, recompute_withoutHook tag s⟩
  · intro wrap addr a
    refine List.forall_mem_cons.2 ⟨?_, List.forall_mem_cons.2 ⟨?_, List.forall_mem_singleton.2 ?_⟩⟩
    · exact congrArg Host.Outcome.next (returnOffset_hook hx .byte s.P.crtc.wrapSel addr)
    · exact congrArg Host.Outcome.next (returnOffset_hook hx .word wrap addr)
    · exact congrArg Host.Outcome.next (returnOffset_hook hx .dword s.P.crtc.wrapSel addr)

end Sys2Proof.Machine
end

section
/-! PROOF. The micro-operations of a tick issued alone: the latches (R203, R204), the total handlers (R205, R207 to
R209), FrameOutput and the overscan rows (R212, R340 to R343), the active-display row (R211); and that ticks
complete (R52, R201). -/

namespace Sys2Proof.Machine

/-! ### The latches -/

/-- The start of the vertical retrace does nothing while its latch is set (R204). -/
theorem vRetraceStart_set {s : State} (h : s.S.vretrace = true) : vRetraceStart s = s := if_pos h

/-- On the 0 to 1 edge it is a frame boundary (R204). -/
theorem vRetraceStart_edge {s : State} (h : s.S.vretrace = false) : vRetraceStart s = { s with
    S := { s.S with vretrace := true, vblankFlag := true, frameCtr := s.S.frameCtr + 1 }
    events := .frame :: s.events } := if_neg (by simp [h])

/-- Settles O29: each micro-operation is the latch update it names; RETR.VS by the two sides of its edge. -/
theorem latchMicroOperations : Obligations.LatchMicroOperations := by
  unfold Obligations.LatchMicroOperations
  exact fun s => ⟨rfl, rfl, rfl, rfl, rfl, rfl, rfl, fun h => congrArg Host.Outcome.next (vRetraceStart_set h),
    fun h => congrArg Host.Outcome.next (vRetraceStart_edge h)⟩

/-! ### The total handlers -/

/-- The row scan of the scanline that an active row leaves: scan doubling holds it for a second time, else it steps
(R205, R209). -/
def scanRow (s : State) : State :=
  if s.P.crtc.scandouble = true ∧ s.S.dblPhase = false then s.setS { s.S with dblPhase := true } else nextRowScan s

theorem scanRow_runtimeOnly (s : State) : RuntimeOnly s (scanRow s) := by
  unfold scanRow
  split
  · exact RuntimeOnly.setS _ _
  · exact nextRowScan_runtimeOnly s

@[simp] theorem scanRow_scanline (s : State) : (scanRow s).S.scanline = s.S.scanline := by
  unfold scanRow
  split
  · rfl
  · unfold nextRowScan
    split <;> rfl

/-- Leaving an active row: the scanline count and the row scan step, and a count that meets the top window's start
restarts the rows (R205, R208). -/
theorem leaveActiveRow_eq (s : State) : leaveActiveRow s =
    if s.S.scanline + 1 = s.P.crtc.topwindowStart then
      topWindow (scanRow (s.setS { s.S with scanline := s.S.scanline + 1 }))
    else scanRow (s.setS { s.S with scanline := s.S.scanline + 1 }) := by
  have hP := (scanRow_runtimeOnly (s.setS { s.S with scanline := s.S.scanline + 1 })).P
  have hn := scanRow_scanline (s.setS { s.S with scanline := s.S.scanline + 1 })
  have e : leaveActiveRow s = if (scanRow (s.setS { s.S with scanline := s.S.scanline + 1 })).S.scanline =
      (scanRow (s.setS { s.S with scanline := s.S.scanline + 1 })).P.crtc.topwindowStart then
        topWindow (scanRow (s.setS { s.S with scanline := s.S.scanline + 1 }))
      else scanRow (s.setS { s.S with scanline := s.S.scanline + 1 }) := by
    simp only [leaveActiveRow, scanRow, Bool.and_eq_true, Bool.not_eq_true']
  rw [e, hn, hP]
  rfl

/-- The horizontal-total handler on a row that is not of the active display (R205). -/
theorem hTotal_inactive {s : State} (h : (vtabAt s s.S.y).getLsbD 13 = false) : hTotal s = startScanline s :=
  if_neg (by simp [sigVActive, h, -BitVec.getLsbD_eq_getElem])

theorem hTotal_active {s : State} (h : (vtabAt s s.S.y).getLsbD 13 = true) :
    hTotal s = leaveActiveRow (startScanline s) := if_pos h

/-- The row scan as one update of the runtime registers (R205, R209). -/
theorem scanRow_eq (s : State) : scanRow s = s.setS
    (if s.P.crtc.scandouble = true ∧ s.S.dblPhase = false then { s.S with dblPhase := true }
    else if s.S.rowscan.toNat + 1 = s.P.crtc.charHeight.toNat then
      { s.S with
        dblPhase := false, rowscan := 0, charrow := s.S.charrow + 1
        memaddr := (s.S.memaddr + s.P.crtc.rowSize.toNat) % 2 ^ s.par.memaddrBits }
    else { s.S with dblPhase := false, rowscan := s.S.rowscan + 1 }) := by
  unfold scanRow nextRowScan
  split
  · rfl
  · split <;> rfl

/-- The split screen as one update of the runtime registers (R208). -/
theorem topWindow_eq (s : State) : topWindow s = s.setS
    (if s.P.attr.topwindowPanreset then
      { s.S with memaddr := 0, rowscan := 0, charrow := 0, dblPhase := false, pixshift := 0, bytepan := 0 }
    else { s.S with memaddr := 0, rowscan := 0, charrow := 0, dblPhase := false }) := by
  unfold topWindow
  dsimp only [State.setS]
  split <;> rfl

/-- Settles O30: the scanline reset, and on leaving an active row the row scan and the top window. -/
theorem horizontalTotal : Obligations.HorizontalTotal := by
  unfold Obligations.HorizontalTotal
  intro s base rows next
  have hnext : scanRow ((startScanline s).setS
      { (startScanline s).S with scanline := (startScanline s).S.scanline + 1 }) = s.setS next := scanRow_eq _
  refine ⟨fun h => congrArg Host.Outcome.next (hTotal_inactive h), fun h hne => congrArg Host.Outcome.next ?_,
    fun h heq => congrArg Host.Outcome.next ?_⟩
  · rw [hTotal_active h, leaveActiveRow_eq, hnext]
    exact if_neg hne
  · rw [hTotal_active h, leaveActiveRow_eq, hnext]
    exact (if_pos heq).trans (topWindow_eq _)

/-- Settles O31: the handler is that one update. -/
theorem verticalTotal : Obligations.VerticalTotal := by
  unfold Obligations.VerticalTotal
  exact fun _ => rfl

/-! ### Ticks complete -/

/-- Settles O32: with legal selectors a tick and any number of ticks answer, and change the runtime registers and
the event list only. -/
theorem ticksComplete : Obligations.TicksComplete := by
  unfold Obligations.TicksComplete
  intro s n h
  obtain ⟨t, ht⟩ := tick_ok h
  obtain ⟨u, hu⟩ := ticks_ok n.toNat h
  exact ⟨⟨t, outcome_eq_next.2 ht, tick_runtimeOnly ht⟩, u, outcome_eq_next.2 hu, ticks_runtimeOnly _ hu⟩

/-! ### FrameOutput -/

/-- The light-pen call comes with every output, the pixel before it in the list unless the screen is blanked (R25,
R341, R343). -/
theorem outputEvents_append (s : State) (c : Rgba) (rest : List Event) : outputEvents s c ++ rest =
    (if s.S.hblank ∨ s.S.vblank ∨ s.P.clk.screenDisable ∨ s.P.attr.paletteDisabled ∨ s.P.crtc.crtcNorender then []
      else [Event.pix s.S.outX s.S.outY c]) ++
    Event.pen s.S.lightpenAddr (decide (s.S.outX = s.S.penX ∧ s.S.outY = s.S.penY)) :: rest := by
  have hpen : atPen s = decide (s.S.outX = s.S.penX ∧ s.S.outY = s.S.penY) := by
    rw [atPen, Bool.decide_and, beq_eq_decide, beq_eq_decide]
  have hblank : blanking s = true ↔ s.S.hblank ∨ s.S.vblank ∨ s.P.clk.screenDisable ∨ s.P.attr.paletteDisabled ∨
      s.P.crtc.crtcNorender := by
    simp only [blanking, Bool.or_eq_true, or_assoc]
  simp only [outputEvents, hpen, hblank]
  split <;> rfl

/-- Dropping the light-pen calls looks at the light-pen hook only (R343, R353). -/
theorem delivered_congr {p q : Params} (h : q.lightPen = p.lightPen) : delivered q = delivered p := by
  funext e
  cases e with
  | pen addr pen => exact h
  | pix | frame | plane23 | diagRetry => rfl

/-- Every event but a light-pen call is delivered (R343, R353). -/
theorem delivered_of_not_pen (par : Params) {e : Event} (h : ∀ addr pen, e ≠ .pen addr pen) :
    delivered par e = true := by
  cases e with
  | pen addr pen => exact absurd rfl (h addr pen)
  | pix | frame | plane23 | diagRetry => rfl

/-- Settles O41: FrameOutput as one update, for the border colour and for the stage registers' colour; and the
delivered events, event by event. -/
theorem frameOutputRows : Obligations.FrameOutputRows := by
  unfold Obligations.FrameOutputRows
  refine ⟨fun s => ?_, fun s => rfl, fun s addr pen rest => ?_, fun s e rest he => ?_, fun s precalc clock wrap => ?_⟩
  · have hout (c : Rgba) : frameOutput c s = _ := frameOutput_eq c s
    simp only [outputEvents_append] at hout
    refine ⟨List.forall_mem_cons.2 ⟨?_, List.forall_mem_singleton.2 ?_⟩, fun c hc => ?_, execOutPixel_none, rfl⟩
    · exact congrArg Host.Outcome.next (hout _)
    · exact congrArg Host.Outcome.next (hout _)
    · rw [execOutPixel_some hc, hout]
  · simp only [deliveredEvents, List.filter_cons, delivered]
    split
    · exact if_pos ‹_›
    · exact if_neg ‹_›
  · exact List.filter_cons_of_pos (delivered_of_not_pen s.par he)
  · exact congrArg (List.filter · s.events) (delivered_congr rfl)

/-! ### The active-display row -/

/-- Away from divider phase 0 the active-display row steps the divider and shows the last colour (R211). -/
theorem execRActive_held {s : State} (hp : s.P.clk.pixelDiv ≠ 3) (h0 : s.S.divPhase ≠ 0) :
    exec .rActive s = .next (showLast (stepDivider (2 ^ s.P.clk.pixelDiv.toNat) s)) := by
  have hnow : reloadNow s = false := beq_false_of_ne h0
  refine outcome_eq_next.2 ?_
  rw [activeDisplay, bind_of_ok (divisorOf_legal hp), hnow]
  rfl

/-- The divider phase after a reload tick (R211, R241). -/
theorem dividerPhase_reload {v : BitVec 2} (h : v ≠ 3) :
    BitVec.ofNat 2 ((0 + 1) % 2 ^ v.toNat) = if v = 0 then 0 else 1 := by
  obtain rfl | rfl | rfl | rfl := twoBit_cases v
  · rfl
  · rfl
  · rfl
  · exact absurd rfl h

/-- Showing the last colour steps the output column exactly if there is one, and leaves the unit count, the divider
phase and the last colour (R211, R340). -/
theorem showLast_counts (s : State) :
    (showLast s).S.activePx = s.S.activePx ∧ (showLast s).S.divPhase = s.S.divPhase ∧
      (showLast s).S.lastEmit = s.S.lastEmit ∧
      (showLast s).S.outX = if s.S.lastEmit = none then s.S.outX else s.S.outX + 1 := by
  cases h : s.S.lastEmit with
  | none =>
    rw [showLast_none h]
    exact ⟨rfl, rfl, h, rfl⟩
  | some c =>
    rw [showLast_some h, frameOutput_eq]
    exact ⟨rfl, rfl, h, rfl⟩

/-- Settles O42: the held tick by its last colour; the reload tick counts one unit and then only stages. -/
theorem activeDisplayRow : Obligations.ActiveDisplayRow := by
  unfold Obligations.ActiveDisplayRow
  intro s hlegal
  obtain ⟨-, hp, -⟩ := SelectorsLegal.fields hlegal
  refine ⟨fun h0 hnone => ?_, fun c h0 hc => ?_, fun h0 => ?_⟩
  · exact (execRActive_held hp h0).trans (congrArg Host.Outcome.next (showLast_none hnone))
  · exact (execRActive_held hp h0).trans (congrArg Host.Outcome.next (showLast_some hc))
  · obtain ⟨u, hu⟩ := reload_ok hlegal
    have hS := (reload_stage hu).1
    have hpx : u.S.activePx = s.S.activePx + 1 := by rw [hS]; rfl
    have hdiv : u.S.divPhase = 0 := by rw [hS]; exact h0
    have houtX : u.S.outX = s.S.outX := by rw [hS]; rfl
    obtain ⟨hpx', hdiv', hlast, houtX'⟩ := showLast_counts (stepDivider (2 ^ s.P.clk.pixelDiv.toNat) u)
    refine ⟨_, execRActive_reload hp h0 hu, ?_, hpx'.trans hpx, hdiv'.trans ?_, ?_⟩
    · exact (reload_runtimeOnly hu).trans ((stepDivider_runtimeOnly _ u).trans (showLast_runtimeOnly _))
    · rw [stepDivider, State.setS_S, hdiv]
      exact dividerPhase_reload hp
    · rw [houtX', hlast, ← houtX]
      rfl

end Sys2Proof.Machine
end

section
/-! PROOF. The signal loop position by position (R201, R206): what a tick runs and how it moves the position, under
valid totals (R205, R207, R214, R351) and under a vertical total of 0 (R395). -/

namespace Sys2Proof.Machine

/-! ### The loop -/

/-- A total bit leads the loop to the position after the total handlers (R201, R215). -/
theorem signalLoop_run {s u : State} (k : Nat) (hs : totalHere s = true) (hu : TotalsRun s u) :
    signalLoop (k + 1) s = signalLoop k u := by
  rw [totalsRun_iff.1 hu]
  exact signalLoop_retry k s ((totalBits_signal s).trans hs)

/-- Without a total bit the loop evaluates the position and stops (R201). -/
theorem signalLoop_stop {s : State} (k : Nat) (hs : totalHere s = false) :
    signalLoop k s = (signal s, false, evaluate s) :=
  signalLoop_still k s ((totalBits_signal s).trans hs)

/-- With no retry left a total bit exceeds the bound (R206). -/
theorem signalLoop_bound {s : State} (hs : totalHere s = true) :
    signalLoop 0 s = (signal s, true, (evaluate s).emit .diagRetry) :=
  if_pos ((totalBits_signal s).trans hs)

/-- A tick is what its signal loop leads to: two positions with one loop have one tick (R201). -/
theorem tick_congr {s u : State} (h : signalLoop Config.retryBound s = signalLoop Config.retryBound u) :
    tick s = tick u := by
  simp only [tick, h]

/-- A tick whose loop stops at `w` runs the render row of `w` and steps the column (R201, R210, R214). -/
theorem tick_stop {s w u : State} (hl : signalLoop Config.retryBound s = (signal w, false, evaluate w))
    (hu : exec (renderRow (resolved w)) (resolved w) = .next u) : tick s = .ok (advanceColumn u) := by
  have hsig : signal (resolved w) = signal w := signal_congr rfl rfl rfl rfl
  rw [← outcome_dispatch, outcome_eq_next, hsig, ← evaluate_eq_resolved] at hu
  simp only [tick, hl, hu, bind, Except.bind]
  rfl

/-- A tick that exceeds the bound renders nothing and steps the column (R206). -/
theorem tick_bound {s u : State} {sig : SigWord} (hl : signalLoop Config.retryBound s = (sig, true, u)) :
    tick s = .ok (advanceColumn u) := by
  simp only [tick, hl]
  rfl

/-! ### Where valid totals lead -/

/-- The horizontal table is looked up whatever the rest of the state (R56). -/
theorem htabAt_congr {s t : State} (h : t.htab = s.htab) (c : BitVec 15) : htabAt t c = htabAt s c := by
  simp only [htabAt, h]

/-- So is the vertical table (R56). -/
theorem vtabAt_congr {s t : State} (h : t.vtab = s.vtab) (r : BitVec 12) : vtabAt t r = vtabAt s r := by
  simp only [vtabAt, h]

/-- The horizontal total bit once the table is built (R112). -/
theorem htabAt_total {s : State} {h : Breakpoints 15} (hs : s.htab = some h) (c : BitVec 15) :
    (htabAt s c).getLsbD 0 = decide (c = h.total) := by
  rw [Bool.eq_iff_iff, htabAt_getLsbD hs, axisWord_getLsbD]
  simp

/-- The vertical total bit once the table is built (R112). -/
theorem vtabAt_total {s : State} {v : Breakpoints 12} (hs : s.vtab = some v) (r : BitVec 12) :
    (vtabAt s r).getLsbD 8 = decide (r = v.total) := by
  rw [Bool.eq_iff_iff, vtabAt_getLsbD_iff hs]
  simp

/-- With both tables built a position has a total bit exactly at one of the totals (R201). -/
theorem totalHere_built {s : State} {h : Breakpoints 15} {v : Breakpoints 12} (hh : s.htab = some h)
    (hv : s.vtab = some v) : totalHere s = true ↔ s.S.x = h.total ∨ s.S.y = v.total := by
  rw [totalHere, htabAt_total hh, vtabAt_total hv, Bool.or_eq_true, decide_eq_true_iff, decide_eq_true_iff]

/-- At the horizontal total alone the handlers are HTOTAL (R205). -/
theorem totalsRun_horizontal {s : State} {h : Breakpoints 15} {v : Breakpoints 12} (hh : s.htab = some h)
    (hv : s.vtab = some v) (hx : s.S.x = h.total) (hy : s.S.y ≠ v.total) : TotalsRun s (hTotal (resolved s)) := by
  refine ⟨hTotal (resolved s), ?_, ?_⟩
  · rw [htabAt_total hh, decide_eq_true hx]
    rfl
  · rw [vtabAt_total hv, decide_eq_false hy]
    rfl

/-- At the vertical total alone they are VTOTAL (R207). -/
theorem totalsRun_vertical {s : State} {v : Breakpoints 12} (hv : s.vtab = some v)
    (hx : (htabAt s s.S.x).getLsbD 0 = false) (hy : s.S.y = v.total) : TotalsRun s (vTotal (resolved s)) := by
  refine ⟨resolved s, ?_, ?_⟩
  · rw [hx]
    rfl
  · rw [vtabAt_total hv, decide_eq_true hy]
    rfl

/-- The row after a row of the frame: the next one, and row 0 after the last (R205, R207). -/
def nextRow (v : Breakpoints 12) (y : BitVec 12) : BitVec 12 := if y + 1 = v.total then 0 else y + 1

/-- The position that a tick renders, from a position below the vertical total: where it is, or past the totals at the
end of its row (R201, R215). -/
def settled (h : Breakpoints 15) (v : Breakpoints 12) (s : State) : State :=
  if s.S.x = h.total then
    if s.S.y + 1 = v.total then vTotal (resolved (hTotal (resolved s))) else hTotal (resolved s)
  else s

section Settled

variable {s : State} {h : Breakpoints 15} {v : Breakpoints 12}

theorem resolved_runtimeOnly (s : State) : RuntimeOnly s (resolved s) := evaluate_eq_resolved s ▸ evaluate_runtimeOnly s

theorem settled_runtimeOnly (h : Breakpoints 15) (v : Breakpoints 12) (s : State) : RuntimeOnly s (settled h v s) := by
  have h1 : RuntimeOnly s (hTotal (resolved s)) := (resolved_runtimeOnly s).trans (hTotal_runtimeOnly _)
  unfold settled
  split
  · split
    · exact h1.trans ((resolved_runtimeOnly _).trans (vTotal_runtimeOnly _))
    · exact h1
  · exact RuntimeOnly.refl s

theorem settled_x : (settled h v s).S.x = if s.S.x = h.total then 0 else s.S.x := by
  unfold settled
  split
  · split
    · exact hTotal_x _
    · exact hTotal_x _
  · rfl

theorem settled_y : (settled h v s).S.y = if s.S.x = h.total then nextRow v s.S.y else s.S.y := by
  unfold settled nextRow
  split
  · split
    · rfl
    · exact hTotal_y _
  · rfl

/-- A row below the total is followed by a row below it (R205, R207). -/
theorem nextRow_lt {y : BitVec 12} (hv : v.total ≠ 0) (hy : y.toNat < v.total.toNat) :
    (nextRow v y).toNat < v.total.toNat := by
  unfold nextRow
  split
  · exact Nat.pos_of_ne_zero fun e => hv (BitVec.eq_of_toNat_eq e)
  · rename_i hne
    have hne : (y + 1).toNat ≠ v.total.toNat := fun e => hne (BitVec.eq_of_toNat_eq e)
    bv_omega

/-- Valid totals settle within the retry bound: HTOTAL leads to column 0, and VTOTAL from there to row 0 (R201,
R351). -/
theorem signalLoop_settled (hb : BuiltFrom s h v) (hy : s.S.y.toNat < v.total.toNat) :
    signalLoop Config.retryBound s = (signal (settled h v s), false, evaluate (settled h v s)) := by
  obtain ⟨hh, hv, hh0, hv0⟩ := hb
  have hy' : s.S.y ≠ v.total := fun e => absurd hy (by rw [e]; exact Nat.lt_irrefl _)
  have hhere {u : State} (hu : RuntimeOnly s u) := totalHere_built (hu.htab.trans hh) (hu.vtab.trans hv)
  have hstop {u : State} (hu : RuntimeOnly s u) (hux : u.S.x ≠ h.total) (huy : u.S.y ≠ v.total) :
      totalHere u = false := Bool.eq_false_iff.2 fun ht => ((hhere hu).1 ht).elim hux huy
  by_cases hx : s.S.x = h.total
  · have hu := (resolved_runtimeOnly s).trans (hTotal_runtimeOnly (resolved s))
    have hux : (hTotal (resolved s)).S.x ≠ h.total := by rw [hTotal_x]; exact hh0.symm
    have huy : (hTotal (resolved s)).S.y = s.S.y + 1 := hTotal_y _
    have hs : totalHere s = true := (hhere (RuntimeOnly.refl s)).2 (.inl hx)
    rw [settled, if_pos hx, Config.retryBound, signalLoop_run _ hs (totalsRun_horizontal hh hv hx hy')]
    by_cases hlast : s.S.y + 1 = v.total
    · have hus : totalHere (hTotal (resolved s)) = true := (hhere hu).2 (.inr (huy.trans hlast))
      have hw := (hu.trans (resolved_runtimeOnly _)).trans (vTotal_runtimeOnly (resolved (hTotal (resolved s))))
      have huh : (htabAt (hTotal (resolved s)) (hTotal (resolved s)).S.x).getLsbD 0 = false := by
        rw [htabAt_total (hu.htab.trans hh), decide_eq_false hux]
      rw [if_pos hlast, signalLoop_run _ hus (totalsRun_vertical (hu.vtab.trans hv) huh (huy.trans hlast))]
      exact signalLoop_stop _ (hstop hw hux hv0.symm)
    · rw [if_neg hlast]
      exact signalLoop_stop _ (hstop hu hux fun e => hlast (huy.symm.trans e))
  · rw [settled, if_neg hx]
    exact signalLoop_stop _ (hstop (RuntimeOnly.refl s) hx hy')

/-- So a tick under valid totals evaluates that position, outputs at most once, and steps the column (R201, R214). -/
theorem tick_settled (hb : BuiltFrom s h v) (hy : s.S.y.toNat < v.total.toNat) (hl : SelectorsLegal s.P = true) :
    ∃ t tail, tick s = .ok t ∧ OutputTail tail ∧ t.events = tail ++ (resolved (settled h v s)).events ∧
      t.S.x = (if s.S.x = h.total then 1 else s.S.x + 1) ∧
      t.S.y = (if s.S.x = h.total then nextRow v s.S.y else s.S.y) ∧
      t.S.vretrace = (resolved (settled h v s)).S.vretrace := by
  obtain ⟨t, ht⟩ := tick_ok hl
  obtain ⟨u, hu, rfl⟩ := tick_cases ht
  rw [signalLoop_settled hb hy, evaluate_eq_resolved] at hu
  obtain ⟨tail, htail, hev⟩ := dispatch_outputTail hu
  obtain ⟨hux, huy, -, -, -, hret, -⟩ := dispatch_samePosition hu
  have hx : (advanceColumn u).S.x = (settled h v s).S.x + 1 := congrArg (· + 1) hux
  refine ⟨_, tail, ht, htail, hev, ?_, huy.trans settled_y, hret⟩
  rw [hx, settled_x]
  split <;> rfl

/-- Before the output the events of such a tick are frame boundaries only (R122, R351). -/
theorem resolved_settled_events (hb : BuiltFrom s h v) (hy : s.S.y.toNat < v.total.toNat) :
    ∃ k, (resolved (settled h v s)).events = List.replicate k .frame ++ s.events := by
  obtain ⟨k, -, u, ⟨hev, -⟩, e⟩ := signalLoop_framesOn Config.retryBound s
  rw [signalLoop_settled hb hy, evaluate_eq_resolved] at e
  have e : resolved (settled h v s) = u := e
  exact ⟨k, by rw [e, hev]⟩

end Settled

/-- No output is a diagnostic. -/
theorem OutputTail.no_diagRetry {tail : List Event} (h : OutputTail tail) : .diagRetry ∉ tail := by
  obtain rfl | ⟨a, b, rfl⟩ | ⟨a, b, x, y, c, rfl⟩ := h <;> simp

/-- Settles O35: the loop stops where there is no total bit, goes on past the totals, or meets the bound; and valid
totals settle before it. -/
theorem tickRowAndPosition : Obligations.TickRowAndPosition := by
  unfold Obligations.TickRowAndPosition
  refine ⟨fun s u hs hu => ?_, fun s u v hs hsu huv hstop => ?_, fun s u v w hsu huv hvw hs hu hv hw => ?_,
    fun s h v hb hy hl => ?_⟩
  · exact outcome_eq_next.2 (tick_stop (signalLoop_stop _ hs) hu)
  · refine congrArg outcome (tick_congr ((signalLoop_run _ hs hsu).trans ?_))
    cases hu : totalHere u with
    | false => rw [signalLoop_stop _ hu, signalLoop_stop _ hu]
    | true =>
      have hv : totalHere v = false := hstop.resolve_left (by simp [hu])
      rw [Config.retryBound, signalLoop_run _ hu huv, signalLoop_run _ hu huv, signalLoop_stop _ hv,
        signalLoop_stop _ hv]
  · have hl : signalLoop Config.retryBound s = (signal w, true, (evaluate w).emit .diagRetry) := by
      rw [Config.retryBound, signalLoop_run _ hs hsu, signalLoop_run _ hu huv, signalLoop_run _ hv hvw,
        signalLoop_bound hw]
    rw [evaluate_eq_resolved] at hl
    exact outcome_eq_next.2 (tick_bound hl)
  · obtain ⟨t, tail, ht, htail, hev, hx, hy', -⟩ := tick_settled hb hy hl
    refine ⟨t, outcome_eq_next.2 ht, hx, hy', fun new hnew => ?_⟩
    obtain ⟨k, hk⟩ := resolved_settled_events hb hy
    rw [hev, hk, ← List.append_assoc] at hnew
    rw [← List.append_cancel_right hnew, List.mem_append, not_or]
    exact ⟨htail.no_diagRetry, fun hmem => nomatch List.eq_of_mem_replicate hmem⟩

/-! ### A vertical total of 0 -/

/-- Row 0 of a vertical table with a total of 0, at a column without the horizontal total (R395). -/
def OnZeroTotal (s : State) : Prop :=
  (∃ v, s.vtab = some v ∧ v.total = 0) ∧ s.S.y = 0 ∧ (htabAt s s.S.x).getLsbD 0 = false

/-- There the position has a total bit. -/
theorem OnZeroTotal.total {s : State} (h : OnZeroTotal s) : totalHere s = true := by
  obtain ⟨⟨v, hv, h0⟩, hy, -⟩ := h
  rw [totalHere, vtabAt_total hv, hy, h0]
  simp

/-- VTOTAL leads back to the same position (R207, R395). -/
theorem OnZeroTotal.run {s : State} (h : OnZeroTotal s) :
    ∃ u, TotalsRun s u ∧ OnZeroTotal u ∧ u.S.x = s.S.x := by
  obtain ⟨⟨v, hv, h0⟩, hy, hx⟩ := h
  exact ⟨vTotal (resolved s), totalsRun_vertical hv hx (hy.trans h0.symm), ⟨⟨v, hv, h0⟩, rfl, hx⟩, rfl⟩

/-- So the loop exceeds the bound, whatever its length, and the position stays (R206, R395). -/
theorem signalLoop_zeroTotal (k : Nat) : ∀ {s : State}, OnZeroTotal s →
    ∃ sig u, signalLoop k s = (sig, true, u) ∧ u.S.x = s.S.x ∧ u.S.y = 0 := by
  induction k with
  | zero =>
    intro s h
    have ht := h.total
    obtain ⟨-, hy, -⟩ := h
    exact ⟨_, _, signalLoop_bound ht, evaluate_x s, (evaluate_y s).trans hy⟩
  | succ k ih =>
    intro s h
    obtain ⟨u, hsu, hu, hx⟩ := h.run
    rw [signalLoop_run k h.total hsu, ← hx]
    exact ih hu

/-- Settles O37: the loop meets the bound on row 0, with one frame boundary in each evaluation at most. -/
theorem verticalTotalZeroRetries : Obligations.VerticalTotalZeroRetries := by
  unfold Obligations.VerticalTotalZeroRetries
  intro s v hv h0 hy hx
  obtain ⟨sig, u, hl, hux, huy⟩ := signalLoop_zeroTotal Config.retryBound ⟨⟨v, hv, h0⟩, hy, hx⟩
  obtain ⟨k, hk, hev⟩ := signalLoop_events Config.retryBound s
  rw [hl] at hev
  exact ⟨advanceColumn u, outcome_eq_next.2 (tick_bound hl), congrArg (· + 1) hux, huy, k, hk, hev⟩

end Sys2Proof.Machine
end

section
/-! PROOF. What one tick keeps: a horizontal blank until its end bit (R216), and the output registers while
retracing (R218). -/

namespace Sys2Proof.Machine

/-! ### The blank latch -/

/-- The horizontal blank latch is set, or is set at this position, and neither this column nor, at the horizontal
total, column 0 carries its end bit (R216). -/
def BlankHeld (s : State) : Prop :=
  (s.S.hblank = true ∨ (htabAt s s.S.x).getLsbD 3 = true) ∧ (htabAt s s.S.x).getLsbD 4 = false ∧
    ((htabAt s s.S.x).getLsbD 0 = true → (htabAt s 0).getLsbD 4 = false)

/-- Its evaluation leaves the latch set (R203). -/
theorem BlankHeld.hblank_evaluate {s : State} (h : BlankHeld s) : (evaluate s).S.hblank = true := by
  obtain ⟨hset, hend, -⟩ := h
  rw [evaluate_eq]
  simp only [signal_low s (show 3 < 8 by decide), signal_low s (show 4 < 8 by decide), hend, Bool.not_false,
    Bool.true_and, Bool.or_eq_true]
  exact hset.symm

/-- The total handlers leave the column, or put column 0 at the horizontal total (R205, R207). -/
theorem runTotals_x (sig : SigWord) (s : State) :
    (runTotals sig s).S.x = if sig.getLsbD 0 = true then 0 else s.S.x := by
  obtain ⟨h, -, e⟩ | ⟨h, -, e⟩ | ⟨h, -, e⟩ | ⟨h, -, e⟩ := runTotals_cases sig s <;> rw [e, h] <;> simp

/-- So the total handlers lead to a position that holds the blank too (R216). -/
theorem BlankHeld.run {s : State} (h : BlankHeld s) : BlankHeld (runTotals (signal s) (evaluate s)) := by
  have hset := h.hblank_evaluate
  obtain ⟨-, hend, hnext⟩ := h
  have htab (c : BitVec 15) : htabAt (runTotals (signal s) (evaluate s)) c = htabAt s c :=
    htabAt_congr ((runTotals_htab _ _).trans (evaluate_htab s)) c
  rw [BlankHeld, htab, htab, runTotals_hblank, runTotals_x, signal_low s (show 0 < 8 by decide), evaluate_x]
  refine ⟨.inl hset, ?_⟩
  split
  · rename_i ht
    exact ⟨hnext ht, fun _ => hnext ht⟩
  · exact ⟨hend, hnext⟩

/-- And the loop ends with the latch set (R216). -/
theorem signalLoop_hblank : ∀ (k : Nat) {s : State}, BlankHeld s → (signalLoop k s).2.2.S.hblank = true
  | 0, s, h => by
    unfold signalLoop
    split
    · exact h.hblank_evaluate
    · exact h.hblank_evaluate
  | k + 1, s, h => by
    unfold signalLoop
    split
    · exact signalLoop_hblank k h.run
    · exact h.hblank_evaluate

/-- What the loop adds to the event list is no output (R206). -/
theorem signalLoop_no_output (k : Nat) (s : State) : ∃ new, (signalLoop k s).2.2.events = new ++ s.events ∧
    (∀ x y c, .pix x y c ∉ new) ∧ ∀ a b, .pen a b ∉ new := by
  obtain ⟨j, -, hev⟩ := signalLoop_events k s
  refine ⟨_, hev.trans (List.append_assoc _ _ _).symm, fun x y c => ?_, fun a b => ?_⟩
  · split <;> simp [List.mem_replicate]
  · split <;> simp [List.mem_replicate]

/-- A row dispatched under a set blank latch outputs no pixel (R25, R341). -/
theorem dispatch_blanked {ta ra : Bool} {sig : SigWord} {s t : State} (hb : s.S.hblank = true)
    (h : dispatch ta ra sig s = .ok t) : ∃ new, t.events = new ++ s.events ∧ ∀ x y c, .pix x y c ∉ new := by
  obtain e | ⟨u, c, e, ⟨-, -, hu, -⟩, -⟩ := dispatch_events h
  · exact ⟨[], e, by simp⟩
  · have hblank : blanking u = true := by simp [blanking, hu, hb]
    rw [outputEvents, if_pos hblank] at e
    exact ⟨_, e, by simp⟩

/-- Settles O38: every position of the loop holds the blank, and the row after it is blanked. -/
theorem blankSticky : Obligations.BlankSticky := by
  unfold Obligations.BlankSticky
  intro s t hset hend hnext ht
  obtain ⟨u, hu, rfl⟩ := tick_cases (outcome_eq_next.1 ht)
  have hb := signalLoop_hblank Config.retryBound ⟨hset, hend, hnext⟩
  obtain ⟨-, -, hkeep, -⟩ := dispatch_samePosition hu
  obtain ⟨loop, hloop, hlpix, -⟩ := signalLoop_no_output Config.retryBound s
  obtain ⟨row, hrow, hrpix⟩ := dispatch_blanked hb hu
  refine ⟨hkeep.trans hb, fun new hnew x y c => ?_⟩
  have hev : u.events = new ++ s.events := hnew
  rw [hrow, hloop, ← List.append_assoc] at hev
  rw [← List.append_cancel_right hev, List.mem_append, not_or]
  exact ⟨hrpix x y c, hlpix x y c⟩

/-! ### Retrace -/

/-- The runtime registers that an active tick steps are as they were, or as the horizontal total leaves them; the
fetch group is as it was (R205, R218). -/
def OutputKept (r r' : Runtime) : Prop :=
  (r'.outX = r.outX ∧ r'.activePx = r.activePx ∧ r'.divPhase = r.divPhase ∧ r'.lastEmit = r.lastEmit ∧
      r'.fetchGroup = r.fetchGroup) ∨
    (r'.outX = 0 ∧ r'.activePx = 0 ∧ r'.divPhase = 0 ∧ r'.lastEmit = none ∧ r'.fetchGroup = r.fetchGroup)

theorem evaluate_outputKept {r : Runtime} {s : State} (h : OutputKept r s.S) : OutputKept r (evaluate s).S := by
  rw [evaluate_eq]
  exact h

theorem hTotal_outputKept {r : Runtime} {s : State} (h : OutputKept r s.S) : OutputKept r (hTotal s).S := by
  have hg : s.S.fetchGroup = r.fetchGroup := by
    obtain ⟨-, -, -, -, hg⟩ | ⟨-, -, -, -, hg⟩ := h
    · exact hg
    · exact hg
  rw [(hTotal_row s).1]
  exact .inr ⟨rfl, rfl, rfl, rfl, hg⟩

theorem runTotals_outputKept {r : Runtime} (sig : SigWord) {s : State} (h : OutputKept r s.S) :
    OutputKept r (runTotals sig s).S := by
  obtain ⟨-, -, e⟩ | ⟨-, -, e⟩ | ⟨-, -, e⟩ | ⟨-, -, e⟩ := runTotals_cases sig s <;> rw [e]
  · exact h
  · exact hTotal_outputKept h
  · exact h
  · exact hTotal_outputKept h

/-- The loop leaves them so (R201, R206). -/
theorem signalLoop_outputKept (k : Nat) (s : State) : OutputKept s.S (signalLoop k s).2.2.S :=
  signalLoop_keeps (p := fun u => OutputKept s.S u.S) (fun _ => evaluate_outputKept)
    (fun sig _ => runTotals_outputKept sig) (fun _ h => h) k s (.inl ⟨rfl, rfl, rfl, rfl, rfl⟩)

/-- While retracing no row is rendered, and no selector is needed (R210, R218). -/
theorem dispatch_retracing (ta : Bool) (sig : SigWord) (s : State) : dispatch ta true sig s = .ok s :=
  if_pos (Bool.or_true ta)

/-- A retrace latch is set exactly while retracing (R113). -/
theorem retracing_iff {s : State} : retracing s = true ↔ s.S.hretrace = true ∨ s.S.vretrace = true := by
  rw [retracing, Bool.or_eq_true]

/-- A tick that ends retracing is its signal loop and the step of the column (R218). -/
theorem tick_retracing {s t : State} (h : tick s = .ok t) (hr : t.S.hretrace = true ∨ t.S.vretrace = true) :
    t = advanceColumn (signalLoop Config.retryBound s).2.2 := by
  obtain ⟨u, hu, rfl⟩ := tick_cases h
  obtain ⟨-, -, -, -, hhr, hvr, -⟩ := dispatch_samePosition hu
  have hloop : retracing (signalLoop Config.retryBound s).2.2 = true := retracing_iff.2 (by rw [← hhr, ← hvr]; exact hr)
  rw [hloop, dispatch_retracing] at hu
  cases hu
  rfl

/-- Settles O40: a tick that ends retracing renders nothing, and one whose first signal leads there needs no
selector. -/
theorem retraceForcesNoop : Obligations.RetraceForcesNoop := by
  unfold Obligations.RetraceForcesNoop
  refine ⟨fun s t ht hr => ?_, fun s hs hr => ?_⟩
  · obtain rfl := tick_retracing (outcome_eq_next.1 ht) hr
    exact ⟨signalLoop_no_output _ s, signalLoop_outputKept _ s⟩
  · have hl := signalLoop_still Config.retryBound s hs
    have ht : tick s = .ok (advanceColumn (evaluate s)) := by
      simp only [tick, hl, retracing_iff.2 hr, dispatch_retracing]
      rfl
    refine ⟨_, outcome_eq_next.2 ht, ?_⟩
    obtain h | h := evaluate_cases s <;> rw [h]
    · exact ⟨rfl, rfl, rfl, rfl, .inl rfl⟩
    · exact ⟨rfl, rfl, rfl, rfl, .inr rfl⟩

end Sys2Proof.Machine
end

section
/-! PROOF. The frame latches (R217): until the next vertical total a tick carries the register file and the three
values that the latches are loaded from along, and looks at none of them. -/

namespace Sys2Proof.Machine

section Sources

/-- The state with the register file, the start address, the byte panning and the pixel shift of another one. -/
def withSources (src s : State) : State := { s with
  reg := src.reg
  P := { s.P with
    crtc := { s.P.crtc with startAddress := src.P.crtc.startAddress, bytePanning := src.P.crtc.bytePanning }
    attr := { s.P.attr with pixelShiftCount := src.P.attr.pixelShiftCount } } }

/-- Two states differ in these places only exactly if the one is the other with these places replaced (R217). -/
theorem sameButLatchSources_iff {s s' : State} : SameButLatchSources s s' ↔ s' = withSources s' s := Iff.rfl

theorem sameButLatchSources_withSources (src s : State) : SameButLatchSources s (withSources src s) := rfl

variable (src : State)

/-! ### A reload tick -/

theorem fetchCell_withSources {char16 : Bool} {col : BitVec 15} {s t : State} (h : fetchCell char16 col s = .ok t) :
    fetchCell char16 col (withSources src s) = .ok (withSources src t) := by
  obtain ⟨hheld, rfl⟩ | ⟨off, hheld, ho, rfl⟩ := fetchCell_cases h
  · exact if_pos hheld
  · have ho : translate (withSources src s) (groupAddr (withSources src s) col) = .ok off := ho
    have hheld : ¬holds (withSources src s) col = true := Bool.eq_false_iff.1 hheld
    rw [fetchCell, if_neg hheld, bind_of_ok ho]
    rfl

theorem fetchGroup_withSources {group : BitVec 15} {s t : State} (h : fetchGroup group s = .ok t) :
    fetchGroup group (withSources src s) = .ok (withSources src t) := by
  obtain ⟨hheld, rfl⟩ | ⟨off, hheld, ho, rfl⟩ := fetchGroup_cases h
  · exact if_pos hheld
  · have ho : translate (withSources src s) (groupAddr (withSources src s) group) = .ok off := ho
    have hheld : ¬holds (withSources src s) group = true := Bool.eq_false_iff.1 hheld
    rw [fetchGroup, if_neg hheld, bind_of_ok ho]
    rfl

theorem decodeText_withSources {cw : CharWidth} {lg c16 : Bool} {px : BitVec 15} {s : State} {r : AttrInfo × State}
    (h : decodeText cw lg c16 px s = .ok r) :
    decodeText cw lg c16 px (withSources src s) = .ok (r.1, withSources src r.2) := by
  obtain ⟨mode, cursor, hm, hf, hc, hr⟩ := decodeText_cases h
  have hm : attrModeOf (withSources src s).P.attr.attrMode = .ok mode := hm
  have hc : cursorHere (withSources src r.2) = .ok cursor := hc
  rw [decodeText, bind_of_ok hm, bind_of_ok (fetchCell_withSources src hf), bind_of_ok hc, hr]
  rfl

theorem decodeGraphics_withSources {shift : ShiftMode} {px : BitVec 15} {s : State} {r : AttrInfo × State}
    (h : decodeGraphics shift px s = .ok r) :
    decodeGraphics shift px (withSources src s) = .ok (r.1, withSources src r.2) := by
  obtain ⟨mode, hm, hf, hr⟩ := decodeGraphics_cases h
  have hm : attrModeOf (withSources src s).P.attr.attrMode = .ok mode := hm
  have hf := fetchGroup_withSources src hf
  rw [decodeGraphics, bind_of_ok hm]
  dsimp only
  rw [bind_of_ok hf, hr]
  rfl

/-- The decode step looks at none of the places (R242). -/
theorem decodeUnit_withSources {s : State} {r : AttrInfo × State} (h : decodeUnit s = .ok r) :
    decodeUnit (withSources src s) = .ok (r.1, withSources src r.2) := by
  unfold decodeUnit at h
  by_cases ht : s.P.gfx.textMode = true
  · rw [if_pos ht] at h
    exact (if_pos ht).trans (decodeText_withSources src h)
  · rw [if_neg ht] at h
    obtain ⟨shift, hs, h⟩ := bind_ok h
    have hs : shiftModeOf (withSources src s).P.gfx.shiftMode = .ok shift := hs
    refine (if_neg ht).trans ?_
    rw [bind_of_ok hs]
    exact decodeGraphics_withSources src h

/-- The ATTR stage looks at none of them (R290). -/
theorem resolve_withSources {ai : AttrInfo} {s : State} {r : Option AttrValue × State} (h : resolve ai s = .ok r) :
    resolve ai (withSources src s) = .ok (r.1, withSources src r.2) := by
  obtain ⟨mode, hm, h⟩ := bind_ok h
  have hm : attrModeOf (withSources src s).P.attr.attrMode = .ok mode := hm
  have hlookup : lookup ai (withSources src s) = lookup ai s := rfl
  rw [resolve, bind_of_ok hm]
  cases mode with
  | attr4 =>
    obtain ⟨v, hv, h⟩ := bind_ok h
    cases h
    exact bind_of_ok (hlookup.trans hv) _
  | attr8 =>
    obtain ⟨v, hv, h⟩ := bind_ok h
    refine (bind_of_ok (hlookup.trans hv) _).trans ?_
    dsimp only at h ⊢
    split at h <;> cases h
    · exact if_pos ‹_›
    · exact if_neg ‹_›
  | attr16 =>
    cases h
    show Except.ok (attr16Of ai (withSources src s)) = _
    simp only [attr16Of]
    split <;> rfl

theorem latchByte_withSources (n : Nat) (b : Byte) (s : State) :
    latchByte n b (withSources src s) = ((latchByte n b s).1, withSources src (latchByte n b s).2) := by
  unfold latchByte
  dsimp only
  by_cases h : (s.S.dacCount + 1).toNat = n
  · rw [if_pos h]
    exact if_pos h
  · rw [if_neg h]
    exact if_neg h

theorem latchBytes_withSources (n : Nat) : ∀ (bs : List Byte) (out : Option (BitVec 32)) (s : State),
    latchBytes n bs out (withSources src s) = ((latchBytes n bs out s).1, withSources src (latchBytes n bs out s).2)
  | [], _, _ => rfl
  | b :: bs, out, s => by
    simp only [latchBytes, latchByte_withSources]
    exact latchBytes_withSources n bs _ _

theorem dacLatchIn_withSources (mode : DacMode) (v : AttrValue) (s : State) :
    dacLatchIn mode v (withSources src s) = ((dacLatchIn mode v s).1, withSources src (dacLatchIn mode v s).2) := by
  unfold dacLatchIn
  split
  · rfl
  · exact latchBytes_withSources src _ _ _ _

/-- The DAC stage looks at none of them (R311, R312). -/
theorem dacStage_withSources {v : AttrValue} {s : State} {r : Option Rgba × State} (h : dacStage v s = .ok r) :
    dacStage v (withSources src s) = .ok (r.1, withSources src r.2) := by
  obtain ⟨mode, hm, h2, h1⟩ := dacStage_cases h
  have hm : dacModeOf (withSources src s).P.dac.dacMode = .ok mode := hm
  have hconv : dacConvertIn (withSources src (dacLatchIn mode v s).2) mode =
      dacConvertIn (dacLatchIn mode v s).2 mode := rfl
  rw [dacStage, bind_of_ok hm, dacLatchIn_withSources, h1, h2]
  dsimp only
  rw [hconv]
  rfl

/-- A reload tick carries them along (R211). -/
theorem reload_withSources {s t : State} (h : reload s = .ok t) :
    reload (withSources src s) = .ok (withSources src t) := by
  obtain ⟨u, hu, h⟩ := bind_ok h
  obtain ⟨v, hv, h⟩ := bind_ok h
  rw [reload, bind_of_ok (decodeUnit_withSources src hu), bind_of_ok (resolve_withSources src hv)]
  obtain ⟨value, v⟩ := v
  cases value with
  | none =>
    cases h
    rfl
  | some c =>
    obtain ⟨w, hw, h⟩ := bind_ok h
    cases h
    exact bind_of_ok (dacStage_withSources src hw) _

/-! ### The render handlers -/

theorem frameOutput_withSources (c : Rgba) (s : State) :
    frameOutput c (withSources src s) = withSources src (frameOutput c s) := by
  rw [frameOutput_eq, frameOutput_eq]
  rfl

theorem showLast_withSources (s : State) : showLast (withSources src s) = withSources src (showLast s) := by
  cases h : s.S.lastEmit with
  | none =>
    rw [showLast_none h]
    exact showLast_none h
  | some c =>
    rw [showLast_some h, ← frameOutput_withSources]
    exact showLast_some h

/-- The active-display row carries them along (R211). -/
theorem activeDisplay_withSources {s t : State} (h : activeDisplay s = .ok t) :
    activeDisplay (withSources src s) = .ok (withSources src t) := by
  obtain ⟨modulus, u, hm, hu, rfl⟩ := activeDisplay_cases h
  have hm : divisorOf (withSources src s).P.clk.pixelDiv = .ok modulus := hm
  have hshow := showLast_withSources src (stepDivider modulus u)
  have hnow : reloadNow (withSources src s) = reloadNow s := rfl
  rw [activeDisplay, bind_of_ok hm, hnow]
  cases hr : reloadNow s with
  | true =>
    rw [hr] at hu
    exact (bind_of_ok (reload_withSources src hu) _).trans (congrArg Except.ok hshow)
  | false =>
    rw [hr] at hu
    have hu : u = s := hu
    subst hu
    exact congrArg Except.ok hshow

/-- A dispatched row carries them along (R210). -/
theorem dispatch_withSources {ta ra : Bool} {sig : SigWord} {s t : State} (h : dispatch ta ra sig s = .ok t) :
    dispatch ta ra sig (withSources src s) = .ok (withSources src t) := by
  have hover : overscan (withSources src s) = withSources src (overscan s) := frameOutput_withSources src _ s
  unfold dispatch at h ⊢
  split
  · rw [if_pos ‹_›] at h
    cases h
    rfl
  · rw [if_neg ‹_›] at h
    split
    · rw [if_pos ‹_›] at h
      exact activeDisplay_withSources src h
    · rw [if_neg ‹_›] at h
      split
      · rw [if_pos ‹_›] at h
        cases h
        rw [hover]
      · rw [if_neg ‹_›] at h
        cases h
        rfl

/-! ### The signal loop -/

theorem signal_withSources (s : State) : signal (withSources src s) = signal s := rfl

theorem evaluate_withSources (s : State) : evaluate (withSources src s) = withSources src (evaluate s) := by
  rw [evaluate_eq_resolved, evaluate_eq_resolved]
  rfl

theorem scanRow_withSources (s : State) : scanRow (withSources src s) = withSources src (scanRow s) := by
  rw [scanRow_eq, scanRow_eq]
  rfl

theorem topWindow_withSources (s : State) : topWindow (withSources src s) = withSources src (topWindow s) := by
  rw [topWindow_eq, topWindow_eq]
  rfl

/-- Leaving an active row looks at none of them (R205, R208). -/
theorem leaveActiveRow_withSources (s : State) :
    leaveActiveRow (withSources src s) = withSources src (leaveActiveRow s) := by
  have hrow := scanRow_withSources src (s.setS { s.S with scanline := s.S.scanline + 1 })
  rw [leaveActiveRow_eq, leaveActiveRow_eq, apply_ite (withSources src), ← topWindow_withSources, ← hrow]
  rfl

/-- The horizontal-total handler carries them along (R205). -/
theorem hTotal_withSources (s : State) : hTotal (withSources src s) = withSources src (hTotal s) := by
  cases h : (vtabAt s s.S.y).getLsbD 13 with
  | false =>
    rw [hTotal_inactive h]
    exact hTotal_inactive h
  | true =>
    rw [hTotal_active h, ← leaveActiveRow_withSources]
    exact hTotal_active h

/-- Without the vertical total bit the total handlers carry them along (R201, R215). -/
theorem runTotals_withSources {sig : SigWord} (h8 : sig.getLsbD 8 = false) (s : State) :
    runTotals sig (withSources src s) = withSources src (runTotals sig s) := by
  obtain ⟨h0, -, e⟩ | ⟨h0, -, e⟩ | ⟨-, h, -⟩ | ⟨-, h, -⟩ := runTotals_cases sig s
  · rw [e]
    simp [runTotals, onBit, sigHTotal, sigVTotal, h0, h8, -BitVec.getLsbD_eq_getElem]
  · rw [e, ← hTotal_withSources]
    simp [runTotals, onBit, sigHTotal, sigVTotal, h0, h8, -BitVec.getLsbD_eq_getElem]
  · exact absurd (h8.symm.trans h) (by decide)
  · exact absurd (h8.symm.trans h) (by decide)

/-- None of the rows that the loop can reach with `k` retries left carries the vertical total (R217). -/
def NoVTotalWithin (k : Nat) (s : State) : Prop :=
  ∀ j ≤ k, (vtabAt s (s.S.y + BitVec.ofNat 12 j)).getLsbD 8 = false

theorem NoVTotalWithin.here {k : Nat} {s : State} (h : NoVTotalWithin k s) : (signal s).getLsbD 8 = false := by
  have h0 := h 0 (Nat.zero_le k)
  rwa [BitVec.add_zero, ← signal_high s (by decide)] at h0

/-- A horizontal total leads one row on, with one retry less (R205). -/
theorem NoVTotalWithin.run {k : Nat} {s : State} (h : NoVTotalWithin (k + 1) s) (ht : totalBits (signal s) = true) :
    NoVTotalWithin k (runTotals (signal s) (evaluate s)) := by
  have h8 := h.here
  have h0 : (signal s).getLsbD 0 = true := by
    simpa [totalBits, sigHTotal, sigVTotal, h8, -BitVec.getLsbD_eq_getElem] using ht
  have hy : (runTotals (signal s) (evaluate s)).S.y = s.S.y + 1 := by
    obtain ⟨e, -⟩ | ⟨-, -, e⟩ | ⟨e, -⟩ | ⟨-, e, -⟩ := runTotals_cases (signal s) (evaluate s)
    · exact absurd (h0.symm.trans e) (by decide)
    · rw [e, hTotal_y, evaluate_y]
    · exact absurd (h0.symm.trans e) (by decide)
    · exact absurd (h8.symm.trans e) (by decide)
  intro j hj
  have hrow : s.S.y + 1 + BitVec.ofNat 12 j = s.S.y + BitVec.ofNat 12 (j + 1) := by
    rw [BitVec.add_assoc, BitVec.add_comm 1, BitVec.ofNat_add]
    rfl
  rw [vtabAt_congr ((runTotals_vtab _ _).trans (evaluate_vtab s)), hy, hrow]
  exact h (j + 1) (Nat.succ_le_succ hj)

/-- The loop carries them along while it meets no vertical total (R201, R217). -/
theorem signalLoop_withSources : ∀ (k : Nat) {s : State}, NoVTotalWithin k s →
    signalLoop k (withSources src s) =
      ((signalLoop k s).1, (signalLoop k s).2.1, withSources src (signalLoop k s).2.2)
  | 0, s, _ => by
    simp only [signalLoop, signal_withSources, evaluate_withSources]
    split <;> rfl
  | k + 1, s, h => by
    by_cases ht : totalBits (signal s) = true
    · have ht' : totalBits (signal (withSources src s)) = true := ht
      rw [signalLoop_retry k s ht, signalLoop_retry k _ ht', signal_withSources, evaluate_withSources,
        runTotals_withSources src h.here]
      exact signalLoop_withSources k (h.run ht)
    · have ht := Bool.eq_false_iff.2 ht
      have ht' : totalBits (signal (withSources src s)) = false := ht
      rw [signalLoop_still _ s ht, signalLoop_still _ _ ht', signal_withSources, evaluate_withSources]

/-- So does a tick (R217). -/
theorem tick_withSources {s t : State} (hv : NoVTotalWithin Config.retryBound s) (h : tick s = .ok t) :
    tick (withSources src s) = .ok (withSources src t) := by
  obtain ⟨u, hu, rfl⟩ := tick_cases h
  have hu := dispatch_withSources src hu
  rw [tick, signalLoop_withSources src Config.retryBound hv]
  exact bind_of_ok hu _

end Sources

/-- Settles O39: the other state is the first with the latch sources replaced, and a tick carries them along. -/
theorem frameLatch : Obligations.FrameLatch := by
  unfold Obligations.FrameLatch
  intro s s' t hsame hv ht
  rw [sameButLatchSources_iff.1 hsame]
  exact ⟨_, outcome_eq_next.2 (tick_withSources s' hv (outcome_eq_next.1 ht)), rfl, rfl,
    sameButLatchSources_withSources s' t⟩

end Sys2Proof.Machine
end

section
/-! PROOF. A frame as ticks (R219): each tick moves one position on in the frame, and the vertical retrace starts once
in it (R204). -/

namespace Sys2Proof.Machine

section Frame

variable {s t u : State} {h : Breakpoints 15} {v : Breakpoints 12} {r y y' : BitVec 12}

/-! ### Positions in a frame -/

/-- How many rows after row `r` a row comes, counted on past the last row. -/
def rowsSince (v : Breakpoints 12) (r y : BitVec 12) : Nat :=
  if r.toNat ≤ y.toNat then y.toNat - r.toNat else y.toNat + v.total.toNat - r.toNat

theorem rowsSince_lt (hr : r.toNat < v.total.toNat) (hy : y.toNat < v.total.toNat) :
    rowsSince v r y < v.total.toNat := by
  unfold rowsSince
  split <;> omega

theorem rowsSince_inj (hr : r.toNat < v.total.toNat) (hy : y.toNat < v.total.toNat) (hy' : y'.toNat < v.total.toNat)
    (e : rowsSince v r y' = rowsSince v r y) : y' = y := by
  refine BitVec.eq_of_toNat_eq ?_
  unfold rowsSince at e
  split at e <;> split at e <;> omega

/-- The next row as a number (R205, R207). -/
theorem nextRow_toNat (hy : y.toNat < v.total.toNat) :
    (nextRow v y).toNat = if y.toNat + 1 = v.total.toNat then 0 else y.toNat + 1 := by
  have hlt := v.total.isLt
  have hsucc : (y + 1).toNat = y.toNat + 1 := by bv_omega
  unfold nextRow
  simp only [← BitVec.toNat_inj, hsucc, apply_ite BitVec.toNat]
  rfl

/-- The next row is one row further, and at row `r` a whole frame of rows is over. -/
theorem rowsSince_nextRow (hr : r.toNat < v.total.toNat) (hy : y.toNat < v.total.toNat) :
    rowsSince v r (nextRow v y) + (if nextRow v y = r then v.total.toNat else 0) = rowsSince v r y + 1 := by
  simp only [← BitVec.toNat_inj, rowsSince, nextRow_toNat hy]
  split_ifs <;> omega

/-- How many ticks after its first tick on row `r` a frame is at a position. -/
def ticksSince (h : Breakpoints 15) (v : Breakpoints 12) (r : BitVec 12) (s : State) : Nat :=
  s.S.x.toNat - 1 + h.total.toNat * rowsSince v r s.S.y

/-- It is less than a frame (R219). -/
theorem ticksSince_lt (hr : r.toNat < v.total.toNat) (hs : InTorus s h v) :
    ticksSince h v r s < h.total.toNat * v.total.toNat := by
  obtain ⟨h1, hx, hy⟩ := hs
  have hrow := Nat.mul_le_mul_left h.total.toNat (Nat.succ_le_of_lt (rowsSince_lt hr hy))
  rw [Nat.mul_succ] at hrow
  unfold ticksSince
  omega

/-- And tells the position (R219). -/
theorem ticksSince_inj (hr : r.toNat < v.total.toNat) (hs : InTorus s h v) (ht : InTorus t h v)
    (e : ticksSince h v r t = ticksSince h v r s) : t.S.x = s.S.x ∧ t.S.y = s.S.y := by
  obtain ⟨h1, hx, hy⟩ := hs
  obtain ⟨h1', hx', hy'⟩ := ht
  have hcol {a b : Nat} (ha : a < h.total.toNat) : (a + h.total.toNat * b) % h.total.toNat = a := by
    rw [Nat.add_mul_mod_self_left, Nat.mod_eq_of_lt ha]
  have ecol := congrArg (· % h.total.toNat) e
  dsimp only [ticksSince] at ecol
  rw [hcol (by omega), hcol (by omega)] at ecol
  unfold ticksSince at e
  rw [ecol] at e
  have erow := Nat.eq_of_mul_eq_mul_left (by omega) (Nat.add_left_cancel e)
  exact ⟨BitVec.eq_of_toNat_eq (by omega), rowsSince_inj hr hy hy' erow⟩

/-- How often a tick from a position comes to row `r`: once from the total column of the row before, else not at all. -/
def arrivals (h : Breakpoints 15) (v : Breakpoints 12) (r : BitVec 12) (s : State) : Nat :=
  if s.S.x = h.total ∧ nextRow v s.S.y = r then 1 else 0

/-- A tick inside the torus leaves it inside, one position further; on coming to row `r` a whole frame is over
(R214, R219). -/
theorem ticksSince_step (hr : r.toNat < v.total.toNat) (hv : v.total ≠ 0) (hs : InTorus s h v)
    (hx : t.S.x = if s.S.x = h.total then 1 else s.S.x + 1)
    (hy : t.S.y = if s.S.x = h.total then nextRow v s.S.y else s.S.y) :
    InTorus t h v ∧ ticksSince h v r s + 1 =
      ticksSince h v r t + arrivals h v r s * (h.total.toNat * v.total.toNat) := by
  obtain ⟨h1, hxh, hyv⟩ := hs
  by_cases hlast : s.S.x = h.total
  · rw [if_pos hlast] at hx hy
    have hrows := congrArg (h.total.toNat * ·) (rowsSince_nextRow hr hyv)
    have hturn : h.total.toNat * (if nextRow v s.S.y = r then v.total.toNat else 0) =
        arrivals h v r s * (h.total.toNat * v.total.toNat) := by
      simp only [arrivals, hlast, true_and]
      split <;> simp
    rw [Nat.mul_add, Nat.mul_succ, hturn] at hrows
    have hone : (1 : BitVec 15).toNat = 1 := rfl
    rw [InTorus, ticksSince, ticksSince, hx, hy, hlast, hone]
    rw [hlast] at h1
    exact ⟨⟨Nat.le_refl 1, h1, nextRow_lt hv hyv⟩, by omega⟩
  · rw [if_neg hlast] at hx hy
    have hlt : s.S.x.toNat < h.total.toNat := Nat.lt_of_le_of_ne hxh fun e => hlast (BitVec.eq_of_toNat_eq e)
    have hsucc : (s.S.x + 1).toNat = s.S.x.toNat + 1 := by
      have := h.total.isLt
      bv_omega
    have hnone : arrivals h v r s = 0 := if_neg fun e => hlast e.1
    rw [InTorus, ticksSince, ticksSince, hx, hy, hsucc, hnone]
    exact ⟨⟨by omega, hlt, hyv⟩, by omega⟩

/-! ### The vertical retrace -/

/-- A row of the vertical table is where a boundary bit says (R112). -/
theorem vtabAt_boundaries (hv : s.vtab = some v) (y : BitVec 12) :
    (vtabAt s y).getLsbD 9 = decide (y = v.retraceStart) ∧ (vtabAt s y).getLsbD 10 = decide (y = v.retraceEnd) := by
  constructor
  · rw [Bool.eq_iff_iff, vtabAt_getLsbD_iff hv]
    simp
  · rw [Bool.eq_iff_iff, vtabAt_getLsbD_iff hv]
    simp

/-- One evaluation clears the vertical retrace latch on its end row, else sets it on its start row (R204). -/
theorem resolved_vretrace (hv : s.vtab = some v) : (resolved s).S.vretrace =
    if s.S.y = v.retraceEnd then false else if s.S.y = v.retraceStart then true else s.S.vretrace := by
  obtain ⟨h9, h10⟩ := vtabAt_boundaries hv s.S.y
  simp only [resolved, h9, h10, decide_eq_true_eq]

/-- And passes a frame boundary on its start row with the latch clear (R204). -/
theorem resolved_events (hv : s.vtab = some v) : (resolved s).events =
    if s.S.y = v.retraceStart ∧ s.S.vretrace = false then .frame :: s.events else s.events := by
  obtain ⟨h9, -⟩ := vtabAt_boundaries hv s.S.y
  simp only [resolved, h9, Bool.and_eq_true, decide_eq_true_eq, Bool.not_eq_true']

/-- Where the latch stands as the row's boundary bits would leave it, an evaluation leaves it and passes no frame
boundary (R204). -/
theorem resolved_quiet (hv : s.vtab = some v) (hstart : s.S.y = v.retraceStart → s.S.vretrace = true)
    (hend : s.S.y = v.retraceEnd → s.S.vretrace = false) :
    (resolved s).S.vretrace = s.S.vretrace ∧ (resolved s).events = s.events := by
  rw [resolved_vretrace hv, resolved_events hv]
  constructor
  · split
    · exact (hend ‹_›).symm
    · split
      · exact (hstart ‹_›).symm
      · rfl
  · refine if_neg fun ⟨hy, hclear⟩ => ?_
    exact absurd (hclear.symm.trans (hstart hy)) (by decide)

/-- The retrace rows begin with the start row and end before the end row. -/
theorem retraceRow_ends (hne : v.retraceStart ≠ v.retraceEnd) :
    RetraceRow v v.retraceStart ∧ ¬RetraceRow v v.retraceEnd := by
  unfold RetraceRow
  constructor
  · split <;> bv_omega
  · split <;> bv_omega

/-- On the other rows the retrace stands as on the row before (R204). -/
theorem retraceRow_nextRow (hstart : v.retraceStart < v.total) (hend : v.retraceEnd < v.total)
    (hy : y.toNat < v.total.toNat) (hs : nextRow v y ≠ v.retraceStart) (he : nextRow v y ≠ v.retraceEnd) :
    RetraceRow v (nextRow v y) ↔ RetraceRow v y := by
  have hn := nextRow_toNat hy
  simp only [ne_eq, ← BitVec.toNat_inj, BitVec.lt_def] at hs he hstart hend
  simp only [RetraceRow, BitVec.lt_def, BitVec.le_def]
  split at hn <;> split <;> omega

/-- And the row before the start row is none of them (R204). -/
theorem retraceRow_before (hend : v.retraceEnd < v.total) (hne : v.retraceStart ≠ v.retraceEnd)
    (hy : y.toNat < v.total.toNat) (hs : nextRow v y = v.retraceStart) : ¬RetraceRow v y := by
  have hn := nextRow_toNat hy
  simp only [ne_eq, ← BitVec.toNat_inj, BitVec.lt_def] at hs hne hend
  simp only [RetraceRow, BitVec.lt_def, BitVec.le_def]
  split at hn <;> split <;> omega

/-- In a running frame the row's boundary bits would leave the latch as it stands. -/
theorem RetraceInStep.quiet (hs : RetraceInStep s v) (hv : s.vtab = some v) :
    (resolved s).S.vretrace = s.S.vretrace ∧ (resolved s).events = s.events := by
  obtain ⟨-, -, hne, hlatch⟩ := hs
  obtain ⟨hstart, hend⟩ := retraceRow_ends hne
  refine resolved_quiet hv (fun hy => hlatch.2 (hy ▸ hstart)) fun hy => ?_
  exact Bool.eq_false_iff.2 fun hset => hend (hy ▸ hlatch.1 hset)

@[simp] theorem hTotal_vretrace (s : State) : (hTotal s).S.vretrace = s.S.vretrace := by rw [(hTotal_row s).1]; rfl

/-- Past the totals at the end of a row the latch and the events still stand: the total row carries no retrace
boundary (R204). -/
theorem settled_quiet (hs : RetraceInStep s v) (hv : s.vtab = some v) :
    (settled h v s).S.vretrace = s.S.vretrace ∧ (settled h v s).events = s.events := by
  obtain ⟨hlatch, hev⟩ := hs.quiet hv
  obtain ⟨hstart, hend, -, -⟩ := hs
  have hlatch' : (hTotal (resolved s)).S.vretrace = s.S.vretrace := (hTotal_vretrace _).trans hlatch
  have hev' : (hTotal (resolved s)).events = s.events := (hTotal_events _).trans hev
  unfold settled
  split
  · split
    · rename_i hlast
      have hrow : (hTotal (resolved s)).S.y = v.total := (hTotal_y _).trans hlast
      have htab := ((resolved_runtimeOnly s).trans (hTotal_runtimeOnly _)).vtab.trans hv
      obtain ⟨hq, hqev⟩ := resolved_quiet htab
        (fun e => absurd hstart (by rw [← e, hrow]; exact BitVec.lt_irrefl _))
        (fun e => absurd hend (by rw [← e, hrow]; exact BitVec.lt_irrefl _))
      exact ⟨hq.trans hlatch', hqev.trans hev'⟩
    · exact ⟨hlatch', hev'⟩
  · exact ⟨rfl, rfl⟩

/-- A tick of a running frame keeps the latch in step, and passes a frame boundary exactly on coming to the start row
(R204). -/
theorem resolved_settled_inStep (hs : RetraceInStep s v) (hv : s.vtab = some v) (hy : s.S.y.toNat < v.total.toNat) :
    ((resolved (settled h v s)).S.vretrace = true ↔
      RetraceRow v (if s.S.x = h.total then nextRow v s.S.y else s.S.y)) ∧
    (resolved (settled h v s)).events = List.replicate (arrivals h v v.retraceStart s) .frame ++ s.events := by
  obtain ⟨hq, hqev⟩ := settled_quiet (h := h) hs hv
  have htab := (settled_runtimeOnly h v s).vtab.trans hv
  rw [resolved_vretrace htab, resolved_events htab, settled_y, hq, hqev, arrivals]
  by_cases hx : s.S.x = h.total
  · obtain ⟨hstart, hend, hne, hlatch⟩ := hs
    obtain ⟨hfirst, hpast⟩ := retraceRow_ends hne
    have hclear (e : nextRow v s.S.y = v.retraceStart) : s.S.vretrace = false :=
      Bool.eq_false_iff.2 fun hset => retraceRow_before hend hne hy e (hlatch.1 hset)
    simp only [hx, if_true, true_and]
    constructor
    · split
      · simp only [‹nextRow v s.S.y = v.retraceEnd›, hpast, Bool.false_eq_true]
      · split
        · simp only [‹nextRow v s.S.y = v.retraceStart›, hfirst]
        · rw [retraceRow_nextRow hstart hend hy ‹_› ‹_›, hlatch]
    · by_cases e : nextRow v s.S.y = v.retraceStart
      · rw [if_pos ⟨e, hclear e⟩, if_pos e]
        rfl
      · rw [if_neg fun h => e h.1, if_neg e]
        rfl
  · obtain ⟨hlatch, hev⟩ := hs.quiet hv
    rw [resolved_vretrace hv] at hlatch
    rw [resolved_events hv] at hev
    obtain ⟨-, -, -, hrow⟩ := hs
    simp only [hx, if_false, false_and]
    rw [hlatch, hev]
    exact ⟨hrow, rfl⟩

/-! ### Ticks of a frame -/

/-- `n` ticks of a frame on from `s`, coming `k` times to row `r`: so many positions further, and, if the vertical
retrace of a running frame starts on that row, with so many FRAME events. -/
def Passed (h : Breakpoints 15) (v : Breakpoints 12) (r : BitVec 12) (n k : Nat) (s t : State) : Prop :=
  RuntimeOnly s t ∧ InTorus t h v ∧
    ticksSince h v r s + n = ticksSince h v r t + k * (h.total.toNat * v.total.toNat) ∧
    (RetraceInStep s v → v.retraceStart = r → RetraceInStep t v ∧
      ∃ new, t.events = new ++ s.events ∧ new.count .frame = k)

theorem Passed.refl (hs : InTorus s h v) : Passed h v r 0 0 s s :=
  ⟨RuntimeOnly.refl s, hs, by simp, fun hr _ => ⟨hr, [], rfl, rfl⟩⟩

theorem Passed.trans {n k m j : Nat} (h1 : Passed h v r n k s t) (h2 : Passed h v r m j t u) :
    Passed h v r (n + m) (k + j) s u := by
  obtain ⟨hro, -, hpos, hret⟩ := h1
  obtain ⟨hro', hin, hpos', hret'⟩ := h2
  refine ⟨hro.trans hro', hin, by rw [Nat.add_mul]; omega, fun hs hr => ?_⟩
  obtain ⟨ht, new, hev, hcount⟩ := hret hs hr
  obtain ⟨hu, new', hev', hcount'⟩ := hret' ht hr
  refine ⟨hu, new' ++ new, by rw [hev', hev, List.append_assoc], ?_⟩
  rw [List.count_append, hcount, hcount', Nat.add_comm]

/-- One tick of a frame (R201, R204, R214). -/
theorem tick_passed (hr : r.toNat < v.total.toNat) (hb : BuiltFrom s h v) (hs : InTorus s h v)
    (hl : SelectorsLegal s.P = true) : ∃ t k, tick s = .ok t ∧ Passed h v r 1 k s t := by
  have ⟨_, _, hy⟩ := hs
  obtain ⟨t, tail, ht, htail, hev, hx, hy', hret⟩ := tick_settled hb hy hl
  obtain ⟨-, hv, -, hv0⟩ := hb
  obtain ⟨hin, hpos⟩ := ticksSince_step hr hv0 hs hx hy'
  refine ⟨t, arrivals h v r s, ht, tick_runtimeOnly ht, hin, hpos, ?_⟩
  rintro hs rfl
  obtain ⟨hrow, hevents⟩ := resolved_settled_inStep (h := h) hs hv hy
  obtain ⟨hstart, hend, hne, -⟩ := hs
  rw [hevents, ← List.append_assoc] at hev
  refine ⟨⟨hstart, hend, hne, by rw [hret, hy']; exact hrow⟩, _, hev, ?_⟩
  rw [List.count_append, List.count_eq_zero.2 htail.no_frame, List.count_replicate_self, Nat.zero_add]

/-- Any number of ticks of a frame (R147, R219). -/
theorem ticks_passed (n : Nat) : ∀ {s : State}, r.toNat < v.total.toNat → BuiltFrom s h v → InTorus s h v →
    SelectorsLegal s.P = true → ∃ t k, ticks n s = .ok t ∧ Passed h v r n k s t := by
  induction n with
  | zero => exact fun _ _ hs _ => ⟨_, 0, rfl, Passed.refl hs⟩
  | succ n ih =>
    intro s hr hb hs hl
    obtain ⟨t, j, ht, hst⟩ := tick_passed hr hb hs hl
    have ⟨hro, hin, _⟩ := hst
    obtain ⟨hh, hv, hh0, hv0⟩ := hb
    obtain ⟨u, k, hu, htu⟩ := ih hr ⟨hro.htab.trans hh, hro.vtab.trans hv, hh0, hv0⟩ hin (by rw [hro.P]; exact hl)
    exact ⟨u, j + k, ticks_succ.2 ⟨t, ht, hu⟩, Nat.add_comm 1 n ▸ hst.trans htu⟩

/-- A frame of ticks comes to every row once, and ends where it began (R219). -/
theorem frame_passed (hr : r.toNat < v.total.toNat) (hb : BuiltFrom s h v) (hs : InTorus s h v)
    (hl : SelectorsLegal s.P = true) : ∃ t, ticks (h.total.toNat * v.total.toNat) s = .ok t ∧
      Passed h v r (h.total.toNat * v.total.toNat) 1 s t ∧ t.S.x = s.S.x ∧ t.S.y = s.S.y := by
  obtain ⟨t, k, ht, hst⟩ := ticks_passed (h.total.toNat * v.total.toNat) hr hb hs hl
  have ⟨_, hin, hpos, _⟩ := hst
  have hlt := ticksSince_lt hr hs
  have hlt' := ticksSince_lt hr hin
  have hk : k = 1 := by
    obtain rfl | rfl | ⟨k, rfl⟩ : k = 0 ∨ k = 1 ∨ ∃ j, k = j + 2 := by
      obtain _ | _ | k := k
      · exact .inl rfl
      · exact .inr (.inl rfl)
      · exact .inr (.inr ⟨k, rfl⟩)
    · omega
    · rfl
    · rw [Nat.add_mul] at hpos
      omega
  subst hk
  rw [Nat.one_mul] at hpos
  exact ⟨t, ht, hst, ticksSince_inj hr hs hin (Nat.add_right_cancel hpos).symm⟩

end Frame

/-- Settles O36: counted from row 0, or from the start row of a running frame's retrace, a frame of ticks ends at the
same count, so at the same position, and passes one frame boundary. -/
theorem frameReturnsToPosition : Obligations.FrameReturnsToPosition := by
  unfold Obligations.FrameReturnsToPosition
  intro s h v hb hs hl
  have ⟨_, _, _, hv0⟩ := hb
  have hsize : (BitVec.ofNat 32 (h.total.toNat * v.total.toNat)).toNat = h.total.toNat * v.total.toNat := by
    have := Nat.mul_lt_mul'' h.total.isLt v.total.isLt
    rw [BitVec.toNat_ofNat, Nat.mod_eq_of_lt (by omega)]
  have hrow : ∃ r : BitVec 12, r.toNat < v.total.toNat ∧ (RetraceInStep s v → v.retraceStart = r) := by
    by_cases hr : RetraceInStep s v
    · have ⟨hstart, _⟩ := hr
      exact ⟨_, hstart, fun _ => rfl⟩
    · exact ⟨0, Nat.pos_of_ne_zero fun e => hv0 (BitVec.eq_of_toNat_eq e), fun h => absurd h hr⟩
  obtain ⟨r, hr, hstart⟩ := hrow
  obtain ⟨t, ht, ⟨⟨-, new, hnew⟩, -, -, hret⟩, hx, hy⟩ := frame_passed hr hb hs hl
  refine ⟨t, new, ?_, hx, hy, hnew, fun hin => ?_⟩
  · rw [← hsize] at ht
    exact outcome_eq_next.2 ht
  · obtain ⟨htin, new', hev, hcount⟩ := hret hin (hstart hin)
    rw [List.append_cancel_right (hnew.symm.trans hev)]
    exact ⟨hcount, htin⟩

end Sys2Proof.Machine
end

section
/-! PROOF. The decode stage and the divider issued alone: DIV.* (R241), the graphics decode variants (R249 to R252)
and DEC.TEXT (R243 to R247). -/

namespace Sys2Proof.Machine

/-! ### The divider -/

/-- A divider variant steps the phase, to `p`, and answers whether it was 0 (R241). -/
theorem divide_eq {modulus : Nat} {s : State} {p : BitVec 2}
    (h : BitVec.ofNat 2 ((s.S.divPhase.toNat + 1) % modulus) = p) :
    divide modulus s = { s with
      S := { s.S with divPhase := p }, result := .reload (decide (s.S.divPhase = 0)) } := by
  rw [← h]
  rfl

/-- A phase stepped modulo 1 stays at 0 (R241). -/
theorem dividerPhase_full (v : BitVec 2) : BitVec.ofNat 2 ((v.toNat + 1) % 1) = 0 := by rw [Nat.mod_one]; rfl

/-- A phase stepped modulo 2 alternates (R241). -/
theorem dividerPhase_half (v : BitVec 2) :
    BitVec.ofNat 2 ((v.toNat + 1) % 2) = if v.getLsbD 0 then 0 else 1 := by
  rcases twoBit_cases v with rfl | rfl | rfl | rfl <;> rfl

/-- A phase stepped modulo 4 is the two-bit successor (R241). -/
theorem dividerPhase_quarter (v : BitVec 2) : BitVec.ofNat 2 ((v.toNat + 1) % 4) = v + 1 := by
  rcases twoBit_cases v with rfl | rfl | rfl | rfl <;> rfl

/-- Settles O28: the three variants are one division, by the step of the phase under each modulus. -/
theorem dividerVariants : Obligations.DividerVariants := by
  unfold Obligations.DividerVariants
  intro s
  exact ⟨congrArg Host.Outcome.next (divide_eq (dividerPhase_full _)),
    congrArg Host.Outcome.next (divide_eq (dividerPhase_half _)),
    congrArg Host.Outcome.next (divide_eq (dividerPhase_quarter _))⟩

/-! ### Bytes and fields of a dword -/

/-- One word above another, as a number. -/
theorem append_toNat {v w : Nat} (x : BitVec v) (y : BitVec w) : (x ++ y).toNat = x.toNat * 2 ^ w + y.toNat := by
  rw [BitVec.toNat_append, ← Nat.shiftLeft_add_eq_or_of_lt y.isLt, Nat.shiftLeft_eq]

/-- A byte of a dword as a number (R86). -/
theorem planeByte_toNat (d : BitVec 32) (p : Nat) : (planeByte d p).toNat = d.toNat / 2 ^ (8 * p) % 256 := by
  rw [planeByte, BitVec.extractLsb'_toNat, Nat.shiftRight_eq_div_pow]

/-- A field of a byte is a field of the dword. -/
theorem planeByte_field (d : BitVec 32) (p : Nat) {lo w : Nat} (h : lo + w ≤ 8) :
    ((planeByte d p).extractLsb' lo w).toNat = d.toNat / 2 ^ (8 * p + lo) % 2 ^ w := by
  have field : (planeByte d p).extractLsb' lo w = d.extractLsb' (8 * p + lo) w := by
    ext k hk
    have hbyte : lo + k < 8 := by omega
    simp [planeByte, BitVec.getElem_extractLsb', hbyte, Nat.add_assoc]
  rw [field, BitVec.extractLsb'_toNat, Nat.shiftRight_eq_div_pow]

/-- Byte `p` of a fetched dword is what plane `p` reads (R86). -/
theorem fetchDword_byte (s : State) (off : Nat) {p : Nat} (h : p ≤ 3) :
    (fetchDword s off).toNat / 2 ^ (8 * p) % 256 = (planeRead s p off).toNat := by
  have h0 := (planeRead s 0 off).isLt
  have h1 := (planeRead s 1 off).isLt
  have h2 := (planeRead s 2 off).isLt
  have h3 := (planeRead s 3 off).isLt
  simp only [fetchDword, append_toNat]
  interval_cases p <;> omega

/-! ### Graphics units -/

/-- The planar unit: one bit of each plane's byte (R250). -/
theorem planarUnit_toNat (d : BitVec 32) {i : Nat} (h : i < 8) :
    (planarUnit d i).toNat =
      bitNat d (7 - i) + 2 * bitNat d (15 - i) + 4 * bitNat d (23 - i) + 8 * bitNat d (31 - i) := by
  have bit (p : Nat) : ((planeByte d p).getLsbD (7 - i)).toNat = bitNat d (8 * p + (7 - i)) := by
    rw [planeByte, BitVec.getLsbD_extractLsb', decide_eq_true (by omega), Bool.true_and, bitNat]
  simp only [planarUnit, append_toNat, BitVec.toNat_ofBool, bit]
  rw [show 8 * 0 + (7 - i) = 7 - i by omega, show 8 * 1 + (7 - i) = 15 - i by omega,
    show 8 * 2 + (7 - i) = 23 - i by omega, show 8 * 3 + (7 - i) = 31 - i by omega]
  omega

/-- The packed unit: two bits of each of two planes' bytes, the planes by the half of the group (R251). -/
theorem packedUnit_toNat (d : BitVec 32) {i : Nat} (h : i < 8) :
    (packedUnit d i).toNat = d.toNat / 2 ^ (8 * (i / 4) + 6 - 2 * (i % 4)) % 4 +
      4 * (d.toNat / 2 ^ (8 * (i / 4 + 2) + 6 - 2 * (i % 4)) % 4) := by
  have planes : packedUnit d i = (planeByte d (i / 4 + 2)).extractLsb' (6 - 2 * (i % 4)) 2 ++
      (planeByte d (i / 4)).extractLsb' (6 - 2 * (i % 4)) 2 := by
    unfold packedUnit
    by_cases hi : i < 4
    · rw [if_pos hi, if_pos hi, Nat.div_eq_of_lt hi]
    · rw [if_neg hi, if_neg hi, show i / 4 = 1 by omega]
  rw [planes, append_toNat, planeByte_field _ _ (by omega), planeByte_field _ _ (by omega),
    ← Nat.add_sub_assoc (by omega), ← Nat.add_sub_assoc (by omega)]
  omega

/-- The 256-colour unit outside ATTR16: a nibble, the high one first (R252). -/
theorem shift256Nibble_toNat (d : BitVec 32) (i : Nat) :
    (shift256Nibble d i).toNat = d.toNat / 2 ^ (8 * (i / 2) + (if i % 2 = 0 then 4 else 0)) % 16 := by
  unfold shift256Nibble
  by_cases hi : i % 2 = 0
  · rw [if_pos hi, if_pos hi]
    exact planeByte_field d _ (by decide)
  · rw [if_neg hi, if_neg hi]
    exact planeByte_field d _ (by decide)

/-- Where a dword gives 8 units, the 256-colour unit is a nibble (R252). -/
theorem graphicsUnit_nibble {mode : AttrMode} (h : unitsPerDword .shift256 mode = 8) (d : BitVec 32) (i : Nat) :
    graphicsUnit .shift256 mode d i = (shift256Nibble d i).setWidth 16 := by
  cases mode with
  | attr4 => rfl
  | attr8 => rfl
  | attr16 => exact absurd h (by decide)

/-! ### The decode stage -/

/-- The size an attribute mode stands for (R63). -/
theorem attrSizeOf_eq {v : BitVec 2} {mode : AttrMode} (h : attrModeOf v = .ok mode) : attrSizeOf mode = sizeFor v := by
  rcases attrModeOf_cases v with ⟨rfl, e⟩ | ⟨rfl, e⟩ | ⟨rfl, e⟩ | ⟨-, e⟩ <;> rw [e] at h <;> cases h <;> rfl

/-- The state with the next unit in the stage register, its data decoded from the runtime registers `r` (R242). -/
def withUnit (s : State) (r : Runtime) (data : BitVec 16) (font : Bool) : State :=
  { s with
    S := r
    pipe := { s.pipe with ai := some ⟨data, font, sizeFor s.P.attr.attrMode, (unitIndex s).getLsbD 0⟩ } }

/-- A group that is held, or whose address is translated, is in the fetch registers afterwards (R249). -/
theorem fetchGroup_graphicsAfter {s : State} {n off : Nat} (h : Held s n ∨ translate s (unitAddr s n) = .ok off) :
    fetchGroup (unitGroup s n) (countUnit s) = .ok (s.setS (graphicsAfter s n off)) := by
  by_cases hh : Held s n
  · rw [fetchGroup, if_pos (holds_countUnit.2 hh), graphicsAfter, if_pos hh]
    rfl
  · have ht : translate (countUnit s) (groupAddr (countUnit s) (unitGroup s n)) = .ok off := h.resolve_left hh
    rw [fetchGroup, if_neg (mt holds_countUnit.1 hh), bind_of_ok ht, graphicsAfter, if_neg hh]
    rfl

/-- A graphics decode fetches the group and puts its unit into the stage register (R249). -/
theorem decodeGraphics_next {s : State} {mode : AttrMode} {shift : ShiftMode} {n : Nat} {r : Runtime}
    (hm : attrModeOf s.P.attr.attrMode = .ok mode) (hn : unitsPerDword shift mode = n)
    (hf : fetchGroup (unitGroup s n) (countUnit s) = .ok (s.setS r)) :
    outcome (decodeGraphics shift (unitIndex s) (countUnit s) >>= fun u => pure (putUnit u)) =
      .next (withUnit s r (graphicsUnit shift mode r.shiftreg (unitInGroup s n)) false) := by
  subst hn
  have hm' : attrModeOf (countUnit s).P.attr.attrMode = .ok mode := hm
  rw [unitGroup] at hf
  rw [decodeGraphics, bind_of_ok hm', bind_of_ok hf, attrSizeOf_eq hm]
  rfl

/-- A cell fetch leaves the runtime registers of `textAfter` and nothing else (R243). -/
theorem fetchCell_eq {s : State} {n off : Nat} (char16 : Bool) (h : Held s n ∨ translate s (unitAddr s n) = .ok off) :
    fetchCell char16 (unitGroup s n) (countUnit s) = .ok (s.setS (textAfter s n char16 off)) := by
  obtain ⟨t, ht, -, hS⟩ := fetchCell_textAfter char16 h
  have ⟨e, _⟩ := fetchCell_stage ht
  have e : t = s.setS t.S := e.trans (congrArg s.setS (congrArg State.S e).symm)
  rw [ht, ← hS, ← e]

/-- The font bit of a dot, before the cursor (R246). -/
theorem fontBit_iff (s : State) (lg : Bool) (icol : Nat) :
    fontBit s lg icol = true ↔ dotBit s.par lg s.S icol := by
  unfold fontBit dotBit
  by_cases h : icol < 8
  · rw [if_pos h, if_pos h]
  · rw [if_neg h, if_neg h]
    simp only [Bool.and_eq_true, decide_eq_true_eq, and_assoc]

/-- The cursor is found where the rate is legal, or the dot is outside the cursor's shape (R247, log 11). -/
theorem cursorHere_iff {s : State} (h : s.P.attr.cursorBlinkSel ≠ 3 ∨ ¬cursorShape s.P s.S) :
    ∃ c, cursorHere s = .ok c ∧ (c = true ↔ cursorAt s.P s.S) := by
  by_cases hc : cursorShape s.P s.S
  · have hsel := h.resolve_right (not_not.2 hc)
    refine ⟨!s.S.frameCtr.getLsbD (3 + s.P.attr.cursorBlinkSel.toNat), ?_, ?_⟩
    · rw [cursorHere, if_pos ((cursorCell_iff s).2 hc), cursorOn, blinkOn, if_neg hsel]
    · rw [Bool.not_eq_true', cursorAt, and_iff_right hc]
  · refine ⟨false, by rw [cursorHere, if_neg (mt (cursorCell_iff s).1 hc)], ?_⟩
    exact iff_of_false Bool.false_ne_true fun ⟨hs, _⟩ => hc hs

/-- DEC.TEXT fetches the cell and puts its unit into the stage register (R243). -/
theorem execDecText_next {s : State} {char9 char16 : Bool} {r : Runtime} {c : Bool} (lg : Bool)
    (hm : s.P.attr.attrMode ≠ 3) (hf : fetchCell char16 (unitGroup s (dotsOf char9)) (countUnit s) = .ok (s.setS r))
    (hc : cursorHere (s.setS r) = .ok c) : exec (.decText char9 lg char16) s =
      .next (withUnit s r r.cellAttr (fontBit (s.setS r) lg (unitInGroup s (dotsOf char9)) || c)) := by
  obtain ⟨mode, hm⟩ := attrModeOf_legal hm
  have hm' : attrModeOf (countUnit s).P.attr.attrMode = .ok mode := hm
  rw [unitGroup] at hf
  simp only [exec, execDecText]
  rw [decodeText, cellDots_operand, bind_of_ok hm', bind_of_ok hf, bind_of_ok hc, attrSizeOf_eq hm]
  rfl

/-- Settles O46: the fetch, the dot's font bit and the cursor, each by its rule. -/
theorem textDecode : Obligations.TextDecode := by
  unfold Obligations.TextDecode
  intro s char9 lg char16 off hm hf r hcur
  obtain ⟨c, hc, hcAt⟩ := cursorHere_iff (s := s.setS r) hcur
  refine ⟨_, execDecText_next lg hm (fetchCell_eq char16 hf) hc, ?_⟩
  rw [Bool.or_eq_true, fontBit_iff, hcAt]
  rfl

/-- Settles O45: the dword's bytes, and each variant's unit as arithmetic on the shift register. -/
theorem graphicsDecode : Obligations.GraphicsDecode := by
  unfold Obligations.GraphicsDecode
  have inGroup (s : State) : unitInGroup s 8 < 8 := Nat.mod_lt _ (by decide)
  refine ⟨fun s off p hp => fetchDword_byte s off hp, fun s off hm hf => ?_, fun s off hm hf => ?_,
    fun s off hm h16 hf => ?_, fun s off h16 hf => ?_⟩
  · obtain ⟨mode, e⟩ := attrModeOf_legal hm
    refine ⟨_, decodeGraphics_next e (unitsPerDword_eight (by decide) mode) (fetchGroup_graphicsAfter hf), ?_⟩
    exact (BitVec.toNat_setWidth_of_le (by decide)).trans (planarUnit_toNat _ (inGroup s))
  · obtain ⟨mode, e⟩ := attrModeOf_legal hm
    refine ⟨_, decodeGraphics_next e (unitsPerDword_eight (by decide) mode) (fetchGroup_graphicsAfter hf), ?_⟩
    exact (BitVec.toNat_setWidth_of_le (by decide)).trans (packedUnit_toNat _ (inGroup s))
  · obtain ⟨mode, e⟩ := attrModeOf_legal hm
    have hn : unitsPerDword .shift256 mode = 8 := (unitsPerDword_shift256 e).trans (if_neg h16)
    refine ⟨_, decodeGraphics_next e hn (fetchGroup_graphicsAfter hf), ?_⟩
    rw [graphicsUnit_nibble hn]
    exact (BitVec.toNat_setWidth_of_le (by decide)).trans (shift256Nibble_toNat _ _)
  · have e : attrModeOf s.P.attr.attrMode = .ok .attr16 := by rw [h16]; rfl
    have hsize : sizeFor s.P.attr.attrMode = .bits16 := by rw [h16]; rfl
    rw [← hsize]
    refine ⟨_, decodeGraphics_next e rfl (fetchGroup_graphicsAfter hf), ?_⟩
    exact (BitVec.toNat_setWidth_of_le (by decide)).trans (planeByte_toNat _ _)

end Sys2Proof.Machine
end

section
/-! PROOF. Plane addressing: the four strategies as arithmetic (R271 to R274), the address translation without the
override hook (R276), and the agreement of chain-4 with it (R272). -/

namespace Sys2Proof.Machine

/-! ### The parts of a strategy's answer -/

/-- Clearing the low `k` bits of an address is shifting them out and back. -/
theorem clearLow_eq (a : BitVec 32) (k : Nat) : a &&& ~~~BitVec.ofNat 32 (2 ^ k - 1) = a >>> k <<< k := by
  ext i hi
  have hmask : (BitVec.ofNat 32 (2 ^ k - 1))[i] = decide (i < k) := by
    rw [← BitVec.getLsbD_eq_getElem, BitVec.getLsbD_ofNat, Nat.testBit_two_pow_sub_one, decide_eq_true hi,
      Bool.true_and]
  by_cases hk : i < k
  · simp [hmask, hk]
  · simp [hmask, hk, Nat.add_sub_of_le (Nat.le_of_not_lt hk), BitVec.getLsbD_eq_getElem hi]

/-- An address with its low `k` bits replaced, as a number: what CHAIN4 and ODDEVEN answer (R272, R273). -/
theorem replaceLow_toNat (a : BitVec 32) {k : Nat} (hk : k ≤ 32) (v : BitVec k) :
    ((a &&& ~~~BitVec.ofNat 32 (2 ^ k - 1)) ||| v.setWidth 32).toNat = a.toNat / 2 ^ k * 2 ^ k + v.toNat := by
  have hcleared : (a >>> k <<< k).toNat = 2 ^ k * (a.toNat / 2 ^ k) := by
    rw [BitVec.toNat_shiftLeft, BitVec.toNat_ushiftRight, Nat.shiftLeft_eq, Nat.shiftRight_eq_div_pow,
      Nat.mod_eq_of_lt ((Nat.div_mul_le_self _ _).trans_lt a.isLt), Nat.mul_comm]
  rw [clearLow_eq, BitVec.toNat_or, hcleared, BitVec.toNat_setWidth_of_le hk,
    ← Nat.two_pow_add_eq_or_of_lt v.isLt, Nat.mul_comm]

/-- The plane mask of the strategies that select one plane (R272, R274). -/
theorem onePlane_toNat (a : BitVec 32) : (onePlane a).toNat = 2 ^ (a.toNat % 4) := by
  have hlow : a.toNat % 4 = (a.extractLsb' 0 2).toNat := (BitVec.extractLsb'_toNat 0 2 a).symm
  rw [onePlane, hlow]
  rcases twoBit_cases (a.extractLsb' 0 2) with h | h | h | h <;> rw [h] <;> rfl

/-- The offset of CHAIN4 (R272). -/
theorem paChain4_offset (a : BitVec 32) :
    (paChain4 a).2.toNat = a.toNat / 4 * 4 + a.toNat / 2 ^ 14 % 4 := by
  rw [← Nat.shiftRight_eq_div_pow a.toNat 14]
  exact (replaceLow_toNat a (k := 2) (by decide) _).trans
    (congrArg (a.toNat / 4 * 4 + ·) (BitVec.extractLsb'_toNat 14 2 a))

/-- The offset of ODDEVEN: the bit above the wrap bit comes in under WORD only (R273). -/
theorem paOddeven_offset (mode : AddrMode) (wrap : Bool) (a : BitVec 32) :
    (paOddeven mode wrap a).2.toNat = a.toNat / 2 * 2 +
      (if addrModeCode mode = 1 then (a.getLsbD (if wrap then 16 else 14)).toNat else 0) := by
  refine (replaceLow_toNat a (k := 1) (by decide) _).trans (congrArg (a.toNat / 2 * 2 + ·) ?_)
  rw [BitVec.toNat_ofBool]
  cases mode with
  | byte => rfl
  | word => cases wrap <;> rfl
  | dword => rfl

/-- The offset of LINEAR (R274). -/
theorem paLinear_offset (a : BitVec 32) : (paLinear a).2.toNat = a.toNat / 4 := by
  rw [paLinear, BitVec.toNat_ushiftRight]
  exact Nat.shiftRight_eq_div_pow _ 2

/-- Under a legal address mode ODDEVEN, in both directions, answers the strategy's pair in that mode (R273). -/
theorem exec_paOddeven {s : State} {mode : AddrMode} (hm : addrModeOf s.P.crtc.addrMode = .ok mode) (wrap : Bool)
    (a : BitVec 32) : ∀ i ∈ [Instr.paOddevenR wrap a, Instr.paOddevenW wrap a],
      exec i s = .next (returnPlaneAddr (paOddeven mode wrap a) s) := by
  have hrow : outcome (paOddevenIn s.P wrap a >>= fun r => pure (returnPlaneAddr r s)) =
      .next (returnPlaneAddr (paOddeven mode wrap a) s) := by
    rw [paOddevenIn, bind_of_ok hm]
    rfl
  exact List.forall_mem_cons.2 ⟨hrow, List.forall_mem_singleton.2 hrow⟩

/-- Settles O23: strategy by strategy, both directions by the same pair. -/
theorem planeAddressStrategies : Obligations.PlaneAddressStrategies := by
  unfold Obligations.PlaneAddressStrategies
  intro s a
  refine ⟨?planar, ?chain4, fun wrap hlegal => ?oddeven, ?linear⟩
  case planar => exact List.forall_mem_cons.2 ⟨rfl, List.forall_mem_singleton.2 rfl⟩
  case chain4 =>
    have harith := And.intro (onePlane_toNat a) (paChain4_offset a)
    exact List.forall_mem_cons.2 ⟨⟨_, _, rfl, harith⟩, List.forall_mem_singleton.2 ⟨_, _, rfl, harith⟩⟩
  case oddeven =>
    obtain ⟨mode, hmode, hcode⟩ := addrModeOf_code hlegal
    intro i hi
    exact ⟨_, _, exec_paOddeven hmode wrap a i hi, rfl, hcode ▸ paOddeven_offset mode wrap a⟩
  case linear =>
    have harith := And.intro (onePlane_toNat a) (paLinear_offset a)
    exact List.forall_mem_cons.2 ⟨⟨_, _, rfl, harith⟩, List.forall_mem_singleton.2 ⟨_, _, rfl, harith⟩⟩

/-! ### The translation without the override hook -/

section NoOverride

variable {s : State} (hx : s.par.addrWrapOverride = false)

include hx

/-- Without the override hook a translated offset is the default one (R276). -/
theorem translateIn_default (mode : AddrMode) (wrap : Bool) (a : Nat) :
    translateIn s mode wrap a = modeOffset s.par.memaddrBits (addrModeCode mode) wrap a := by
  rw [translateIn, overrideOffset, hx, defaultOffset_eq]
  rfl

/-- So is the offset of a fetch under a legal `P.addr_mode` (R276). -/
theorem translate_default (hlegal : s.P.crtc.addrMode ≠ 3) (a : Nat) :
    translate s a = .ok (modeOffset s.par.memaddrBits s.P.crtc.addrMode s.P.crtc.wrapSel a) := by
  obtain ⟨mode, hmode, hcode⟩ := addrModeOf_code hlegal
  rw [translate, bind_of_ok hmode, translateIn_default hx, hcode]
  rfl

/-- And what a translate row answers, on its operand reduced to `MEMADDR_BITS` (R276). -/
theorem returnOffset_default (mode : AddrMode) (wrap : Bool) (addr : BitVec 32) :
    returnOffset mode wrap addr s = { s with result := .offset (
      modeOffset s.par.memaddrBits (addrModeCode mode) wrap (addr.toNat % 2 ^ s.par.memaddrBits)) } := by
  rw [returnOffset, translateIn_default hx]
  rfl

end NoOverride

/-- Settles O25: a fetch and a row take the offset of their mode, which is the arithmetic of each of the three. -/
theorem addressTranslation : Obligations.AddressTranslation := by
  unfold Obligations.AddressTranslation
  constructor
  · intro s a hx
    have fetched {v : BitVec 2} (hv : s.P.crtc.addrMode = v) (hlegal : v ≠ 3) :
        translate s a = .ok (modeOffset s.par.memaddrBits v s.P.crtc.wrapSel a) :=
      hv ▸ translate_default hx (hv ▸ hlegal) a
    exact ⟨fun h => fetched h (by decide), fun h => fetched h (by decide), fun h => fetched h (by decide)⟩
  · intro s wrap addr hx
    have row (mode : AddrMode) (w : Bool) : (.next (returnOffset mode w addr s) : Out) = .next _ :=
      congrArg Host.Outcome.next (returnOffset_default hx mode w addr)
    exact ⟨row .byte _, row .word wrap, row .dword _⟩

/-! ### Chain-4 and the doubleword translation -/

/-- Below 0x10000 the CHAIN4 offset is the DWORD offset of a quarter of the address: the quarter is below `2^14`, so
neither it nor four times it is cut (R272, R276). -/
theorem paChain4_offset_eq_dword {a : BitVec 32} (h : a.toNat < 0x10000) (wrap : Bool) :
    modeOffset 16 (addrModeCode .dword) wrap ((a >>> 2).toNat % 2 ^ 16) = (paChain4 a).2.toNat := by
  have hquarter : (a >>> 2).toNat = a.toNat / 4 := paLinear_offset a
  rw [paChain4_offset, hquarter]
  show a.toNat / 4 % 2 ^ 16 * 4 % 2 ^ 16 + a.toNat / 4 % 2 ^ 16 / 2 ^ 12 % 4 = _
  omega

/-- Settles O26: both rows answer the same offset. -/
theorem chain4MatchesDword : Obligations.Chain4MatchesDword := by
  unfold Obligations.Chain4MatchesDword
  intro s a hM hx h
  refine ⟨_, _, rfl, congrArg Host.Outcome.next ?_⟩
  rw [returnOffset_default hx, hM, paChain4_offset_eq_dword h]

end Sys2Proof.Machine
end

section
/-! PROOF. The ATTR stage issued alone: the table entry (R292), and ATTR.* on the unit in the stage register
(R291, R294, R295, R297). -/

namespace Sys2Proof.Machine

/-! ### The text rules -/

/-- Bit 7 of a byte as a bound (R292). -/
theorem bit7_iff (a : Byte) : a.getLsbD 7 = true ↔ 128 ≤ a.toNat := by
  have h : a.getLsbD 7 = decide (128 ≤ a.toNat) := a.msb_eq_decide
  rw [h, decide_eq_true_iff]

/-- Rule (3) gates in text mode where blink is enabled, bit 7 is set, and the phase is off (R292). -/
theorem blinkGated_iff {p : Precalc} (ht : p.gfx.textMode = true) (a : Byte) (blink : Bool) :
    (blinkMatters p a && !blink) = true ↔ p.attr.blinkEnable = true ∧ 128 ≤ a.toNat ∧ blink = false := by
  rw [blinkMatters, ht, Bool.true_and, Bool.and_eq_true, Bool.and_eq_true, bit7_iff, Bool.not_eq_true', and_assoc]

/-- The font flag in text mode by the rules from the strongest down: each is applied after the weaker ones, so it
overrides them (R292). -/
theorem textFlag_eq {p : Precalc} (ht : p.gfx.textMode = true) (par : Params) (a : Byte) (font blink : Bool)
    (row : BitVec 5) : textFlag par p a font blink row =
      if p.attr.blinkEnable = true ∧ 128 ≤ a.toNat ∧ blink = false then false
      else if a &&& 0x77 = 0x01 ∧ row = p.crtc.underlineLocation then true
      else if p.attr.monoAttr = true ∧ a ∈ par.monoForcedBg then false
      else font := by
  simp only [textFlag, blinkGated_iff ht, Bool.and_eq_true, beq_iff_eq, List.contains_iff_mem]

/-- The background nibble as a number (R292). -/
theorem background_toNat (p : Precalc) (a : Byte) :
    (background p a).toNat = if p.attr.blinkEnable = true then a.toNat / 16 % 8 else a.toNat / 16 := by
  have nibble : (a.extractLsb' 4 4).toNat = a.toNat / 16 := by
    have := a.isLt
    rw [extractLsb'_byte]
    omega
  unfold background
  split_ifs
  · rw [BitVec.toNat_and, nibble]
    exact Nat.and_two_pow_sub_one_eq_mod _ 3
  · exact nibble

/-- The lowest bits of a word as a number. -/
theorem lowBits_toNat {w : Nat} (v : BitVec w) (k : Nat) : (v.extractLsb' 0 k).toNat = v.toNat % 2 ^ k :=
  BitVec.extractLsb'_toNat 0 k v

/-- A word of a known value. -/
theorem eq_ofNat_of_toNat {w n : Nat} {v : BitVec w} (h : v.toNat = n) : v = BitVec.ofNat w n := by
  rw [← h, BitVec.ofNat_toNat, BitVec.setWidth_eq]

/-- The number of the nibble that a font flag shows: the foreground's or the background's (R292). -/
def shownNibble (p : Precalc) (a : Byte) (flag : Bool) : Nat :=
  if flag then a.toNat % 16 else if p.attr.blinkEnable then a.toNat / 16 % 8 else a.toNat / 16

/-- In text mode the nibble is the one its font flag shows (R292). -/
theorem attrNibble_text {p : Precalc} (ht : p.gfx.textMode = true) (par : Params) (a : Byte) (font blink : Bool)
    (row : BitVec 5) : attrNibble par p a font blink row =
      BitVec.ofNat 4 (shownNibble p a (textFlag par p a font blink row)) := by
  rw [attrNibble, if_pos ht]
  cases textFlag par p a font blink row with
  | true => exact eq_ofNat_of_toNat (lowBits_toNat a 4)
  | false => exact eq_ofNat_of_toNat (background_toNat p a)

/-- In graphics mode it is the low nibble (R292). -/
theorem attrNibble_graphics {p : Precalc} (ht : p.gfx.textMode = false) (par : Params) (a : Byte) (font blink : Bool)
    (row : BitVec 5) : attrNibble par p a font blink row = BitVec.ofNat 4 (a.toNat % 16) := by
  rw [attrNibble, if_neg (ne_true_of_eq_false ht)]
  exact eq_ofNat_of_toNat (lowBits_toNat a 4)

/-- Settles O47: the nibble by the text rules from the strongest down, then the colour planes and the palette. -/
theorem attributeEntry : Obligations.AttributeEntry := by
  unfold Obligations.AttributeEntry
  intro par p a font blink row fg bg gated underlined forced nib shown
  have hnib : attrNibble par p a font blink row = BitVec.ofNat 4 nib := by
    cases ht : p.gfx.textMode with
    | false =>
      have graphics : nib = fg := if_pos ht
      rw [attrNibble_graphics ht, graphics]
    | true =>
      have text : nib = shownNibble p a (textFlag par p a font blink row) := by
        simp only [textFlag_eq ht, apply_ite (shownNibble p a)]
        exact if_neg (ne_false_of_eq_true ht)
      rw [attrNibble_text ht, text]
  have hshown : attrNibble par p a font blink row &&& p.attr.colorPlaneEnable = shown := congrArg (· &&& _) hnib
  have hentry : p.attr.palette16[shown.toNat] = p.attr.palette16.toList.getD shown.toNat 0 := by
    rw [List.getD_eq_getElem _ _ (by simpa using shown.isLt), Vector.getElem_toList]
  simp only [attrEntry, hshown]
  rw [hentry, BitVec.ofNat_toNat]

/-! ### The lookup -/

/-- Where the blink phase takes no part, the entry is the same under either phase (R292). -/
theorem attrEntry_blink {p : Precalc} {a : Byte} (h : blinkMatters p a = false) (par : Params) (font b b' : Bool)
    (row : BitVec 5) : attrEntry par p a font b row = attrEntry par p a font b' row := by
  simp only [attrEntry, attrNibble, textFlag, h, Bool.false_and]

/-- The model's test for the blink phase is the statement's (R292). -/
theorem blinkMatters_iff {p : Precalc} {ai : AttrInfo} :
    blinkMatters p (ai.attr.extractLsb' 0 8) = true ↔ NeedsTextBlink p ai := by
  simp [blinkMatters, NeedsTextBlink, and_assoc, -BitVec.getLsbD_eq_getElem]

/-- The lookup where the blink rate is legal or not needed (R291, log 11). -/
theorem lookup_entryOf {ai : AttrInfo} {s : State} (h : s.P.attr.textBlinkSel ≠ 3 ∨ ¬NeedsTextBlink s.P ai) :
    lookup ai s = .ok (entryOf s ai) := by
  by_cases hn : NeedsTextBlink s.P ai
  · have hsel := h.resolve_right (not_not.2 hn)
    have hphase : textBlinkOn s = .ok (textPhase s) := if_neg hsel
    exact (if_pos (blinkMatters_iff.2 hn)).trans (bind_of_ok hphase _)
  · have hm := mt blinkMatters_iff.1 hn
    exact (if_neg hm).trans (congrArg Except.ok (attrEntry_blink (Bool.eq_false_of_not_eq_true hm) ..))

/-! ### The variants -/

/-- ATTR.4 is its stage on the unit (R294). -/
theorem exec_attr4 (s : State) : exec .attr4 s = onUnit attr4Of s := rfl

/-- ATTR.8 is its stage on the unit (R295). -/
theorem exec_attr8 (s : State) : exec .attr8 s = onUnit attr8Of s := rfl

/-- ATTR.16 is its stage on the unit, and cannot be refused (R297). -/
theorem exec_attr16 (s : State) : exec .attr16 s = onUnit (fun ai s => .ok (attr16Of ai s)) s := rfl

/-- With no unit there is no value (log 4). -/
theorem onUnit_none {f : AttrInfo → State → Res (Option AttrValue × State)} {s : State} (h : s.pipe.ai = none) :
    onUnit f s = .next { s with pipe := { s.pipe with val := none } } := by
  have put : onUnit f s = .next (putValue (none, s)) := by simp only [onUnit, h]
  exact put

/-- With a unit the stage's answer goes into the stage register (log 4). -/
theorem onUnit_ok {f : AttrInfo → State → Res (Option AttrValue × State)} {s : State} {ai : AttrInfo}
    {r : Option AttrValue × State} (hai : s.pipe.ai = some ai) (h : f ai s = .ok r) :
    onUnit f s = .next (putValue r) := by
  rw [onUnit_some hai, bind_of_ok h]
  rfl

/-- ATTR.16 on a unit, in the same way (R297). -/
theorem exec_attr16_some {s : State} {ai : AttrInfo} {r : Option AttrValue × State} (hai : s.pipe.ai = some ai)
    (h : attr16Of ai s = r) : exec .attr16 s = .next (putValue r) := by
  rw [exec_attr16, onUnit_some hai, h]
  rfl

/-- The low nibble of a byte, kept in a byte (R295). -/
theorem lowNibble_eq (v : Byte) : (v.extractLsb' 0 4).setWidth 8 = v &&& 0x0F := by
  refine BitVec.eq_of_toNat_eq ?_
  rw [BitVec.toNat_setWidth_of_le (by decide), lowBits_toNat, BitVec.toNat_and]
  exact (Nat.and_two_pow_sub_one_eq_mod _ 4).symm

/-- One word above another, as arithmetic in a given width (R295, R297). -/
theorem setWidth_append {v w : Nat} (n : Nat) (x : BitVec v) (y : BitVec w) :
    (x ++ y).setWidth n = BitVec.ofNat n (x.toNat * 2 ^ w + y.toNat) := by
  rw [← append_toNat, BitVec.ofNat_toNat]

/-- ATTR4 gives the entry (R294). -/
theorem attr4Of_eq {ai : AttrInfo} {s : State} {v : Byte} (hl : lookup ai s = .ok v) :
    attr4Of ai s = .ok (some ⟨v.setWidth 16, 1⟩, s) := bind_of_ok hl _

/-- ATTR8 on phase 0 holds the nibble (R295). -/
theorem attr8Of_first {ai : AttrInfo} {s : State} {v : Byte} (hl : lookup ai s = .ok v) (hp : ai.phase = false) :
    attr8Of ai s = .ok (none, latchAttr (v &&& 0x0F) s) := by
  rw [attr8Of, bind_of_ok hl, ← lowNibble_eq, hp]
  rfl

/-- ATTR8 on phase 1 joins the held nibble, high, and its own (R295). -/
theorem attr8Of_second {ai : AttrInfo} {s : State} {v : Byte} (hl : lookup ai s = .ok v) (hp : ai.phase = true) :
    attr8Of ai s = .ok (some ⟨BitVec.ofNat 16 (s.S.attrLatch.toNat % 16 * 16 + v.toNat % 16), 1⟩, s) := by
  rw [attr8Of, bind_of_ok hl, hp, if_pos rfl, setWidth_append, lowBits_toNat, lowBits_toNat]
  rfl

/-- ATTR16 on phase 0 holds the low byte of the unit (R297, log 26). -/
theorem attr16Of_first {ai : AttrInfo} {s : State} (hp : ai.phase = false) :
    attr16Of ai s = (none, latchAttr (ai.attr.extractLsb' 0 8) s) := by
  rw [attr16Of, hp]
  rfl

/-- ATTR16 on phase 1 joins the held byte, low, and its own (R297, log 26). -/
theorem attr16Of_second {ai : AttrInfo} {s : State} (hp : ai.phase = true) :
    attr16Of ai s = (some ⟨BitVec.ofNat 16 (ai.attr.toNat % 256 * 256 + s.S.attrLatch.toNat), 2⟩, s) := by
  have joined := setWidth_append 16 (ai.attr.extractLsb' 0 8) s.S.attrLatch
  rw [BitVec.setWidth_eq, lowBits_toNat] at joined
  rw [attr16Of, hp, if_pos rfl, joined]
  rfl

/-- Settles O48: without a unit, or each variant on each phase with its lookup. -/
theorem attributeVariants : Obligations.AttributeVariants := by
  unfold Obligations.AttributeVariants
  intro s
  refine ⟨fun hai i hi => ?noUnit, fun ai hai hb => ?attr4, fun ai hai hb hp => ?attr8First,
    fun ai hai hb hp => ?attr8Second, fun ai hai hp => ?attr16First, fun ai hai hp => ?attr16Second⟩
  case noUnit =>
    obtain rfl | rfl | rfl : i = .attr4 ∨ i = .attr8 ∨ i = .attr16 := by simpa using hi
    · exact (exec_attr4 s).trans (onUnit_none hai)
    · exact (exec_attr8 s).trans (onUnit_none hai)
    · exact (exec_attr16 s).trans (onUnit_none hai)
  case attr4 =>
    rw [exec_attr4, onUnit_ok hai (attr4Of_eq (lookup_entryOf hb))]
    rfl
  case attr8First =>
    rw [exec_attr8, onUnit_ok hai (attr8Of_first (lookup_entryOf hb) hp)]
    rfl
  case attr8Second =>
    rw [exec_attr8, onUnit_ok hai (attr8Of_second (lookup_entryOf hb) hp)]
    rfl
  case attr16First => exact exec_attr16_some hai (attr16Of_first hp)
  case attr16Second => exact exec_attr16_some hai (attr16Of_second hp)

end Sys2Proof.Machine
end

section
/-! PROOF. The bytes of a raw colour (`spec/46_dac_pipeline.md`): the byte swap (R315), the fields of the direct
colours (R314, R316, R317, R319), and the byte latch of the depth variants (R311, R327). -/

namespace Sys2Proof.Machine

/-! ### Bytes of a word -/

/-- A byte of a word as a number. -/
theorem byteOf_toNat {w : Nat} (v : BitVec w) (k : Nat) : (byteOf v k).toNat = v.toNat / 2 ^ (8 * k) % 256 := by
  rw [byteOf, BitVec.extractLsb'_toNat, Nat.shiftRight_eq_div_pow]

/-- The lowest byte of a word as a number. -/
theorem byteOf_low {w : Nat} (v : BitVec w) : (byteOf v 0).toNat = v.toNat % 256 := lowBits_toNat v 8

/-- The bits of a byte of a word. -/
theorem byteOf_getLsbD {w : Nat} (v : BitVec w) (k : Nat) {i : Nat} (hi : i < 8) :
    (byteOf v k).getLsbD i = v.getLsbD (8 * k + i) := by
  rw [byteOf, BitVec.getLsbD_extractLsb', decide_eq_true hi, Bool.true_and]

/-- A byte of a union of words is the union of their bytes. -/
theorem byteOf_or {w : Nat} (u v : BitVec w) (k : Nat) : byteOf (u ||| v) k = byteOf u k ||| byteOf v k :=
  BitVec.extractLsb'_or

/-- A byte put into a dword at byte `j` is byte `j` of it, and every other byte is zero. -/
theorem byteOf_placed (b : Byte) {j : Nat} (hj : j < 4) (k : Nat) :
    byteOf (b.setWidth 32 <<< (8 * j)) k = if k = j then b else 0 := by
  refine BitVec.eq_of_getLsbD_eq fun i hi => ?_
  rw [byteOf_getLsbD _ _ hi, BitVec.getLsbD_shiftLeft, BitVec.getLsbD_setWidth]
  split_ifs with hk
  · have inside : 8 * k + i < 32 ∧ ¬8 * k + i < 8 * j ∧ 8 * k + i - 8 * j = i := by omega
    simp [inside, show i < 32 by omega]
  · have outside : 8 * k + i < 8 * j ∨ 8 ≤ 8 * k + i - 8 * j := by omega
    rcases outside with h | h
    · simp [h]
    · simp [BitVec.getLsbD_of_ge b _ h]

/-! ### The byte swap -/

/-- The dword that the first `m` steps of the swap of `n` bytes build (R315). -/
def swapped (raw : BitVec 32) (n m : Nat) : BitVec 32 :=
  (List.range m).foldl (fun acc k => acc ||| ((byteOf raw k).setWidth 32 <<< (8 * (n - 1 - k)))) 0

theorem swapBytes_eq (raw : BitVec 32) (n : Nat) : swapBytes raw n = swapped raw n n := rfl

theorem swapped_succ (raw : BitVec 32) (n m : Nat) :
    swapped raw n (m + 1) = swapped raw n m ||| ((byteOf raw m).setWidth 32 <<< (8 * (n - 1 - m))) := by
  rw [swapped, List.range_succ, List.foldl_append]
  rfl

/-- After `m` steps the `m` highest of the `n` bytes are in place (R315). -/
theorem byteOf_swapped (raw : BitVec 32) {n k : Nat} (hn : n ≤ 4) (hk : k < n) {m : Nat} (hm : m ≤ n) :
    byteOf (swapped raw n m) k = if n - 1 - k < m then byteOf raw (n - 1 - k) else 0 := by
  induction m with
  | zero => exact BitVec.extractLsb'_zero
  | succ m ih =>
    rw [swapped_succ, byteOf_or, ih (by omega), byteOf_placed _ (by omega)]
    by_cases here : k = n - 1 - m
    · obtain rfl : m = n - 1 - k := by omega
      simp [← here]
    · have later : n - 1 - k < m + 1 ↔ n - 1 - k < m := by omega
      simp [here, later]

/-- The swap builds nothing above its `n` bytes (R315). -/
theorem swapped_lt (raw : BitVec 32) {n m : Nat} (hm : m ≤ n) : (swapped raw n m).toNat < 2 ^ (8 * n) := by
  induction m with
  | zero => exact Nat.two_pow_pos _
  | succ m ih =>
    have byte : (byteOf raw m).toNat < 2 ^ 8 := (byteOf raw m).isLt
    have placed : ((byteOf raw m).setWidth 32 <<< (8 * (n - 1 - m))).toNat < 2 ^ (8 * n) := by
      rw [BitVec.toNat_shiftLeft, BitVec.toNat_setWidth_of_le (by decide), Nat.shiftLeft_eq]
      calc (byteOf raw m).toNat * 2 ^ (8 * (n - 1 - m)) % 2 ^ 32
          ≤ (byteOf raw m).toNat * 2 ^ (8 * (n - 1 - m)) := Nat.mod_le _ _
        _ < 2 ^ 8 * 2 ^ (8 * (n - 1 - m)) := Nat.mul_lt_mul_of_pos_right byte (Nat.two_pow_pos _)
        _ = 2 ^ (8 + 8 * (n - 1 - m)) := (Nat.pow_add _ _ _).symm
        _ ≤ 2 ^ (8 * n) := Nat.pow_le_pow_right (by decide) (by omega)
    rw [swapped_succ, BitVec.toNat_or]
    exact Nat.or_lt_two_pow (ih (by omega)) placed

/-- DAC.SWAP swaps by the byte count of the selected depth (R315, log 4). -/
theorem exec_dacSwap {s : State} {mode : DacMode} (hm : dacModeOf s.P.dac.dacMode = .ok mode) :
    exec .dacSwap s = .next { s with
      pipe := { s.pipe with raw := s.pipe.raw.map fun raw => swapBytes raw (need mode) } } :=
  congrArg outcome (bind_of_ok hm _)

/-- Settles O53: the swap by induction on its steps, and DAC.SWAP as one swap. -/
theorem byteSwap : Obligations.ByteSwap := by
  unfold Obligations.ByteSwap
  refine ⟨fun raw n k hn hk => ?_, fun raw n _ => swapped_lt raw (Nat.le_refl n), fun s mode hm => exec_dacSwap hm⟩
  rw [swapBytes_eq, byteOf_swapped raw hn hk (Nat.le_refl n), if_pos (by omega)]

/-! ### The direct colours -/

/-- A field of a word as a number. -/
theorem field_toNat {n : Nat} (v : BitVec n) (lo w : Nat) : (v.extractLsb' lo w).toNat = v.toNat / 2 ^ lo % 2 ^ w := by
  rw [BitVec.extractLsb'_toNat, Nat.shiftRight_eq_div_pow]

/-- A 5-bit field widened repeats its three high bits below (R314). -/
theorem widen5_toNat (f : BitVec 5) : (widen5 f).toNat = f.toNat * 8 + f.toNat / 4 := by
  have := f.isLt
  have high : (widen5 f).toNat = f.toNat * 2 ^ 3 + (f.extractLsb' 2 3).toNat := append_toNat f _
  rw [high, field_toNat]
  omega

/-- A 6-bit field widened repeats its two high bits below (R316, R318). -/
theorem widen6_toNat (f : BitVec 6) : (widen6 f).toNat = f.toNat * 4 + f.toNat / 16 := by
  have := f.isLt
  have high : (widen6 f).toNat = f.toNat * 2 ^ 2 + (f.extractLsb' 4 2).toNat := append_toNat f _
  rw [high, field_toNat]
  omega

/-- A 5-bit field of a pixel, widened (R314, R316). -/
theorem widen5_field (c : BitVec 32) (lo : Nat) : (widen5 (c.extractLsb' lo 5)).toNat = widened c lo 5 := by
  rw [widen5_toNat, field_toNat]
  rfl

/-- A 6-bit field of a pixel, widened (R316). -/
theorem widen6_field (c : BitVec 32) (lo : Nat) : (widen6 (c.extractLsb' lo 6)).toNat = widened c lo 6 := by
  rw [widen6_toNat, field_toNat]
  rfl

/-- The top byte of a pixel (R319). -/
theorem byteOf_top (c : BitVec 32) : (byteOf c 3).toNat = c.toNat / 2 ^ 24 := by
  have := c.isLt
  rw [byteOf_toNat]
  omega

/-- Settles O52: each channel is a widened field or a byte of the raw colour. -/
theorem colourFields : Obligations.ColourFields := by
  unfold Obligations.ColourFields
  intro s c
  exact ⟨⟨widen5_field c 10, widen5_field c 5, widen5_field c 0, rfl⟩,
    ⟨widen5_field c 11, widen6_field c 5, widen5_field c 0, rfl⟩,
    ⟨byteOf_toNat c 2, byteOf_toNat c 1, byteOf_low c, rfl⟩,
    ⟨byteOf_toNat c 2, byteOf_toNat c 1, byteOf_low c, byteOf_top c⟩⟩

/-! ### The byte latch -/

/-- A byte entering the latch, as arithmetic (R311). -/
theorem shiftIn_eq_latchAfter {n : Nat} (h1 : 1 ≤ n) (h4 : n ≤ 4) (latch : BitVec 32) (b : Byte) :
    shiftIn n latch b = latchAfter n latch b := by
  have fits : b.toNat * 2 ^ (8 * (n - 1)) < 2 ^ 32 := by
    calc b.toNat * 2 ^ (8 * (n - 1)) < 2 ^ 8 * 2 ^ (8 * (n - 1)) :=
          Nat.mul_lt_mul_of_pos_right b.isLt (Nat.two_pow_pos _)
      _ = 2 ^ (8 + 8 * (n - 1)) := (Nat.pow_add _ _ _).symm
      _ ≤ 2 ^ 32 := Nat.pow_le_pow_right (by decide) (by omega)
  rw [shiftIn, latchAfter, BitVec.toNat_or, BitVec.toNat_ushiftRight, Nat.shiftRight_eq_div_pow,
    BitVec.toNat_shiftLeft, BitVec.toNat_setWidth_of_le (by decide), Nat.shiftLeft_eq, Nat.mod_eq_of_lt fits]

/-- The latch never holds more than its `n` bytes after a byte (R311). -/
theorem shiftIn_lt (n : Nat) (latch : BitVec 32) (b : Byte) : (shiftIn n latch b).toNat < 2 ^ (8 * n) := by
  rw [shiftIn, BitVec.toNat_ofNat]
  exact Nat.lt_of_le_of_lt (Nat.mod_le _ _) (Nat.mod_lt _ (Nat.two_pow_pos _))

/-- Byte `k` of the latch after a byte has entered at the top (R311). -/
theorem byteOf_shiftIn {n k : Nat} (h4 : n ≤ 4) (hk : k < n) (latch : BitVec 32) (b : Byte) :
    byteOf (shiftIn n latch b) k = byteOf latch (k + 1) ||| if k = n - 1 then b else 0 := by
  have kept : byteOf (shiftIn n latch b) k = byteOf (latch >>> 8 ||| b.setWidth 32 <<< (8 * (n - 1))) k := by
    refine BitVec.eq_of_getLsbD_eq fun i hi => ?_
    have inside : 8 * k + i < 32 ∧ 8 * k + i < 8 * n := by omega
    rw [byteOf_getLsbD _ _ hi, byteOf_getLsbD _ _ hi, shiftIn, BitVec.getLsbD_ofNat, Nat.testBit_mod_two_pow,
      BitVec.testBit_toNat, decide_eq_true inside.1, decide_eq_true inside.2, Bool.true_and, Bool.true_and]
  have shifted : byteOf (latch >>> 8) k = byteOf latch (k + 1) := by
    refine BitVec.eq_of_getLsbD_eq fun i hi => ?_
    rw [byteOf_getLsbD _ _ hi, byteOf_getLsbD _ _ hi, BitVec.getLsbD_ushiftRight]
    exact congrArg latch.getLsbD (by omega)
  rw [kept, byteOf_or, shifted, byteOf_placed b (by omega)]

/-- The `n` bytes the latch holds, the oldest first (R311). -/
def latchedBytes (n : Nat) (latch : BitVec 32) : List Byte := (List.range n).map (byteOf latch)

@[simp] theorem latchedBytes_length (n : Nat) (latch : BitVec 32) : (latchedBytes n latch).length = n := by
  rw [latchedBytes, List.length_map, List.length_range]

theorem latchedBytes_getD {n k : Nat} (hk : k < n) (latch : BitVec 32) :
    (latchedBytes n latch).getD k 0 = byteOf latch k := by
  simp [latchedBytes, hk]

/-- A byte enters after the others, and the oldest one leaves (R311). -/
theorem latchedBytes_shiftIn {n : Nat} (h1 : 1 ≤ n) (h4 : n ≤ 4) {latch : BitVec 32}
    (hl : latch.toNat < 2 ^ (8 * n)) (b : Byte) :
    latchedBytes n (shiftIn n latch b) = (latchedBytes n latch ++ [b]).drop 1 := by
  have above : byteOf latch n = 0 := by
    refine BitVec.eq_of_toNat_eq ?_
    rw [byteOf_toNat, Nat.div_eq_of_lt hl]
    rfl
  obtain ⟨m, rfl⟩ : ∃ m, n = m + 1 := ⟨n - 1, by omega⟩
  have lower : (List.range m).map (byteOf (shiftIn (m + 1) latch b)) =
      (List.range m).map (fun k => byteOf latch (k + 1)) := by
    refine List.map_congr_left fun k hk => ?_
    have hkm : k < m := List.mem_range.1 hk
    rw [byteOf_shiftIn h4 (by omega), if_neg (by omega)]
    exact BitVec.or_zero
  have top : byteOf (shiftIn (m + 1) latch b) m = b := by
    rw [byteOf_shiftIn h4 (by omega), above, if_pos (Nat.add_sub_cancel m 1).symm]
    exact BitVec.zero_or
  calc latchedBytes (m + 1) (shiftIn (m + 1) latch b)
      = (List.range m).map (byteOf (shiftIn (m + 1) latch b)) ++ [byteOf (shiftIn (m + 1) latch b) m] := by
        rw [latchedBytes, List.range_succ, List.map_append, List.map_singleton]
    _ = (List.range m).map (fun k => byteOf latch (k + 1)) ++ [b] := by rw [lower, top]
    _ = (latchedBytes (m + 1) latch ++ [b]).drop 1 := by
        rw [latchedBytes, List.range_succ_eq_map, List.map_cons, List.map_map]
        rfl

/-- The latch is a queue: bytes enter after those it holds, and as many of the oldest leave (R311). -/
theorem latchedBytes_foldl {n : Nat} (h1 : 1 ≤ n) (h4 : n ≤ 4) : ∀ (bs : List Byte) {latch : BitVec 32},
    latch.toNat < 2 ^ (8 * n) →
    latchedBytes n (bs.foldl (shiftIn n) latch) = (latchedBytes n latch ++ bs).drop bs.length
  | [], _, _ => by simp
  | b :: bs, latch, hl => by
    have hcut : 1 ≤ (latchedBytes n latch ++ [b]).length := by simp
    rw [List.foldl_cons, latchedBytes_foldl h1 h4 bs (shiftIn_lt n latch b), latchedBytes_shiftIn h1 h4 hl,
      ← List.drop_append_of_le_length hcut, List.drop_drop, List.append_assoc, List.singleton_append,
      List.length_cons, Nat.add_comm]

/-- Once `n` bytes have entered, they are what the latch holds (R311, R327). -/
theorem latchedBytes_full {n : Nat} (h1 : 1 ≤ n) (h4 : n ≤ 4) {bs : List Byte} (hbs : bs.length = n)
    {latch : BitVec 32} (hl : latch.toNat < 2 ^ (8 * n)) : latchedBytes n (bs.foldl (shiftIn n) latch) = bs := by
  rw [latchedBytes_foldl h1 h4 bs hl]
  exact List.drop_left' ((latchedBytes_length n latch).trans hbs.symm)

/-! ### Latching -/

/-- The 3-bit count steps as a number below the byte counts in use (R311). -/
theorem nextCount_eq_iff {n : Nat} (h1 : 1 ≤ n) (h4 : n ≤ 4) (c : BitVec 3) : (c + 1).toNat = n ↔ c.toNat + 1 = n := by
  have := c.isLt
  rw [BitVec.toNat_add]
  change (c.toNat + 1) % 2 ^ 3 = n ↔ _
  omega

section Latching
variable {n : Nat} (h1 : 1 ≤ n) (h4 : n ≤ 4)
include h1 h4

/-- A byte that reaches the count completes a raw colour (R311). -/
theorem latchByte_completes {s : State} (hc : s.S.dacCount.toNat + 1 = n) (b : Byte) :
    latchByte n b s = (some (shiftIn n s.S.dacLatch b), { s with S := { s.S with
      dacLatch := shiftIn n s.S.dacLatch b, dacCount := 0, lastColor := shiftIn n s.S.dacLatch b } }) :=
  if_pos ((nextCount_eq_iff h1 h4 _).2 hc)

/-- Any other byte is only latched and counted (R311). -/
theorem latchByte_counts {s : State} (hc : s.S.dacCount.toNat + 1 ≠ n) (b : Byte) :
    latchByte n b s = (none, { s with S := { s.S with
      dacLatch := shiftIn n s.S.dacLatch b, dacCount := s.S.dacCount + 1 } }) :=
  if_neg (hc ∘ (nextCount_eq_iff h1 h4 _).1)

/-- Bytes short of the count give no raw colour (R311). -/
theorem latchBytes_short : ∀ (bs : List Byte) {s : State}, s.S.dacCount.toNat + bs.length < n →
    (latchBytes n bs none s).1 = none
  | [], _, _ => rfl
  | b :: bs, s, h => by
    rw [List.length_cons] at h
    have stepped : (s.S.dacCount + 1).toNat = s.S.dacCount.toNat + 1 :=
      (nextCount_eq_iff (by omega) (by omega) _).2 rfl
    rw [latchBytes, latchByte_counts h1 h4 (by omega)]
    exact latchBytes_short bs (by simp only [stepped]; omega)

/-- Bytes up to the count give the latch they fill, at the last of them (R311). -/
theorem latchBytes_completes : ∀ (bs : List Byte) {s : State}, bs ≠ [] → s.S.dacCount.toNat + bs.length = n →
    ∃ t, latchBytes n bs none s = (some (bs.foldl (shiftIn n) s.S.dacLatch), t) ∧ t.S.dacCount = 0 ∧
      t.S.lastColor = bs.foldl (shiftIn n) s.S.dacLatch
  | [], _, hne, _ => absurd rfl hne
  | [b], s, _, h => by
    rw [latchBytes, latchByte_completes h1 h4 h]
    exact ⟨_, rfl, rfl, rfl⟩
  | b :: b' :: bs, s, _, h => by
    rw [List.length_cons, List.length_cons] at h
    have stepped : (s.S.dacCount + 1).toNat = s.S.dacCount.toNat + 1 :=
      (nextCount_eq_iff (by omega) (by omega) _).2 rfl
    rw [latchBytes, latchByte_counts h1 h4 (by omega)]
    exact latchBytes_completes (b' :: bs) (List.cons_ne_nil _ _)
      (by simp only [stepped, List.length_cons]; omega)

end Latching

/-- A pixel takes one to four bytes (R311). -/
theorem need_bounds (mode : DacMode) : 1 ≤ need mode ∧ need mode ≤ 4 := by
  cases mode <;> decide

/-- Settles O51: the count says when a raw colour results, and the latch as a queue which bytes it holds. -/
theorem latchOrder : Obligations.LatchOrder := by
  unfold Obligations.LatchOrder
  intro s mode bytes _ hcount hlatch
  obtain ⟨h1, h4⟩ := need_bounds mode
  have hc : s.S.dacCount.toNat = 0 := by rw [hcount]; rfl
  refine ⟨fun hshort => latchBytes_short h1 h4 bytes (by omega), fun hfull => ?_⟩
  have hne : bytes ≠ [] := List.ne_nil_of_length_pos (by omega)
  obtain ⟨t, hrun, hcount', hlast⟩ := latchBytes_completes h1 h4 bytes hne (s := s) (by omega)
  refine ⟨_, t, hrun, hcount', hlast, fun k hk => ?_⟩
  rw [← byteOf_toNat, ← latchedBytes_getD hk, latchedBytes_full h1 h4 hfull hlatch]

end Sys2Proof.Machine
end

section
/-! PROOF. The depth variants issued alone: DAC.8 (R311, R313) and the direct-colour depths (R311, R312, R315). -/

namespace Sys2Proof.Machine

/-! ### The latch and the conversion of a depth variant -/

/-- A stage changes nothing but the runtime registers. -/
theorem StageStep.eq_setS {s t : State} (h : StageStep s t) : t = s.setS t.S := by
  obtain ⟨e, -⟩ := h
  rw [e]
  rfl

/-- The state a depth variant leaves: the runtime registers of its latch, and in the stage registers the raw colour as
presented, if the latch gave one, and its conversion (R312, log 4). -/
def converted (s : State) (mode : DacMode) (r : Option (BitVec 32) × State) : State := { s with
  S := r.2.S
  pipe := { s.pipe with
    raw := r.1.map (presented s mode), rgba := (r.1.map (presented s mode)).map (depthColour s mode) } }

/-- A depth variant is its latch and a conversion that looks at nothing the latch changes (R312). -/
theorem runDepth_converted (mode : DacMode) (s : State) :
    runDepth mode s = converted s mode (latched mode s.pipe.val s) := by
  have stage := latched_stage mode s.pipe.val s
  have hpresented := funext (presented_congr stage.P mode)
  have hcolour := funext (depthColour_congr stage.par stage.P stage.pal mode)
  rw [runDepth_eq]
  dsimp only
  rw [hpresented, hcolour, stage.eq_setS]
  rfl

/-- With no value there is no colour (R311). -/
theorem runDepth_none {s : State} (h : s.pipe.val = none) (mode : DacMode) :
    runDepth mode s = { s with pipe := { s.pipe with raw := none, rgba := none } } :=
  (runDepth_converted mode s).trans (by rw [h]; rfl)

/-- The low byte of a byte in a wider word. -/
theorem byteOf_setWidth {w : Nat} (b : Byte) (hw : 8 ≤ w) : byteOf (b.setWidth w) 0 = b := by
  refine BitVec.eq_of_getLsbD_eq fun i hi => ?_
  rw [byteOf_getLsbD _ _ hi, BitVec.getLsbD_setWidth]
  simp [show i < w by omega]

/-! ### DAC.8 -/

/-- Settles O49: the latch of DAC.8 is the low byte of the value. -/
theorem paletteDepth : Obligations.PaletteDepth := by
  unfold Obligations.PaletteDepth
  intro s
  refine ⟨fun h => congrArg Host.Outcome.next (runDepth_none h .m8), fun v h => congrArg Host.Outcome.next ?_⟩
  have hraw : (byteOf v.value 0).setWidth 32 = BitVec.ofNat 32 (v.value.toNat % 256) :=
    eq_ofNat_of_toNat ((BitVec.toNat_setWidth_of_le (by decide)).trans (byteOf_low v.value))
  have hindex : byteOf ((byteOf v.value 0).setWidth 32) 0 = v.value.extractLsb' 0 8 := byteOf_setWidth _ (by decide)
  rw [← hraw, ← hindex, runDepth_converted, h]
  rfl

/-! ### The direct-colour depths -/

/-- The operation of a direct-colour depth is its depth variant, of two bytes or more (R311). -/
theorem exec_directDepth {mode : DacMode} {i : Instr} (h : (mode, i) ∈ directDepths) :
    need mode ≠ 1 ∧ ∀ s, exec i s = .next (runDepth mode s) := by
  simp only [directDepths, List.mem_cons, Prod.mk.injEq, List.not_mem_nil, or_false] at h
  rcases h with ⟨rfl, rfl⟩ | ⟨rfl, rfl⟩ | ⟨rfl, rfl⟩ | ⟨rfl, rfl⟩ <;> exact ⟨by decide, fun _ => rfl⟩

/-- The raw colour is swapped exactly if `P.dac_swap` is set, and never in MODE8 (R312, R313, R315). -/
theorem presented_eq (s : State) (mode : DacMode) (raw : BitVec 32) : presented s mode raw =
    if s.P.dac.dacSwap = true ∧ mode ≠ .m8 then swapBytes raw (need mode) else raw := by
  cases mode <;> simp [presented]

section DirectDepth
variable {mode : DacMode} (hd : need mode ≠ 1)
include hd

/-- With a value of one byte that byte is latched (R311). -/
theorem runDepth_one {s : State} {v : BitVec 16} (h : s.pipe.val = some ⟨v, 1⟩) :
    runDepth mode s = converted s mode (latchByte (need mode) (v.extractLsb' 0 8) s) := by
  have run : latched mode (some ⟨v, 1⟩) s = latchBytes (need mode) [v.extractLsb' 0 8] none s := if_neg hd
  rw [runDepth_converted, h, run, latchBytes, latchBytes, Option.or_none]

/-- A value of two bytes latches its low byte and then its high byte, and gives the raw colour that the later of them
completes (R290, R311). -/
theorem latched_two (hi lo : Byte) (s : State) : latched mode (some ⟨hi ++ lo, 2⟩) s =
    let first := latchByte (need mode) lo s
    let second := latchByte (need mode) hi first.2
    (second.1.or first.1, second.2) := by
  have low : byteOf (hi ++ lo) 0 = lo := BitVec.extractLsb'_append_eq_right
  have high : byteOf (hi ++ lo) 1 = hi := BitVec.extractLsb'_append_eq_left
  have run : latched mode (some ⟨hi ++ lo, 2⟩) s =
      latchBytes (need mode) [byteOf (hi ++ lo) 0, byteOf (hi ++ lo) 1] none s := if_neg hd
  rw [run, low, high, latchBytes, latchBytes, latchBytes, Option.or_none]

/-- The depth variant on one byte put into the stage register (R311, log 4). -/
theorem runDepth_byte (b : Byte) (s : State) :
    runDepth mode (s.setPipe { s.pipe with val := some ⟨b.setWidth 16, 1⟩ }) =
      converted (s.setPipe { s.pipe with val := some ⟨b.setWidth 16, 1⟩ }) mode (latchByte (need mode) b s) := by
  have hb : (b.setWidth 16).extractLsb' 0 8 = b := byteOf_setWidth b (by decide)
  rw [runDepth_one hd (v := b.setWidth 16) rfl, hb, latchByte_setPipe]
  rfl

/-- A value of two bytes does what its two bytes do one after the other (R290, R311). -/
theorem runDepth_two {s t u : State} {hi lo : Byte} (hval : s.pipe.val = some ⟨hi ++ lo, 2⟩)
    (ht : runDepth mode (s.setPipe { s.pipe with val := some ⟨lo.setWidth 16, 1⟩ }) = t)
    (hu : runDepth mode (t.setPipe { t.pipe with val := some ⟨hi.setWidth 16, 1⟩ }) = u) :
    runDepth mode s = { s with
      S := u.S
      pipe := { s.pipe with raw := u.pipe.raw.or t.pipe.raw, rgba := u.pipe.rgba.or t.pipe.rgba } } := by
  rw [runDepth_byte hd] at ht hu
  have stage := latchByte_stage (need mode) lo s
  have hfirst : t = (latchByte (need mode) lo s).2.setPipe t.pipe := by
    rw [stage.eq_setS, ← ht]
    rfl
  have hsecond : latchByte (need mode) hi t = ((latchByte (need mode) hi (latchByte (need mode) lo s).2).1,
      (latchByte (need mode) hi (latchByte (need mode) lo s).2).2.setPipe t.pipe) := by
    conv_lhs => rw [hfirst, latchByte_setPipe]
  rw [hsecond] at hu
  rw [runDepth_converted, hval, latched_two hd, ← hu, ← ht, converted, Option.map_or, Option.map_or]
  rfl

end DirectDepth

/-- Settles O50: with no value, with one byte by whether it reaches the count, and two bytes as one after the other. -/
theorem directDepths_hold : Obligations.DirectDepths := by
  unfold Obligations.DirectDepths
  refine ⟨by decide, presented_eq, fun s mode i mem => ?_, fun s t u mode i lo hi mem hval ht hu => ?_⟩
  · obtain ⟨hd, hexec⟩ := exec_directDepth mem
    obtain ⟨h1, h4⟩ := need_bounds mode
    rw [hexec s]
    refine ⟨fun h => congrArg Host.Outcome.next (runDepth_none h mode), fun v hv => ⟨fun hc => ?_, fun hc => ?_⟩⟩
    · rw [runDepth_one hd hv, latchByte_completes h1 h4 hc, shiftIn_eq_latchAfter h1 h4]
      rfl
    · rw [runDepth_one hd hv, latchByte_counts h1 h4 hc, shiftIn_eq_latchAfter h1 h4]
      rfl
  · obtain ⟨hd, hexec⟩ := exec_directDepth mem
    rw [hexec] at ht hu ⊢
    exact congrArg Host.Outcome.next (runDepth_two hd hval (Host.Outcome.next.inj ht) (Host.Outcome.next.inj hu))

end Sys2Proof.Machine
end

section
/-! PROOF. The colour stages issued alone: luminance (R322, R332), look-up (R318, R321), tints (R323), level (R324)
and DAC-off (R325). -/

namespace Sys2Proof.Machine

/-! ### Luminance -/

/-- A quotient that a byte holds, as a byte. -/
theorem byteQuotient_toNat {n d : Nat} (h : n ≤ 255 * d) : (BitVec.ofNat 8 (n / d)).toNat = n / d :=
  Nat.mod_eq_of_lt (Nat.lt_succ_of_le (Nat.div_le_of_le_mul (Nat.mul_comm 255 d ▸ h)))

/-- A byte is at most 255. -/
theorem byte_le (b : Byte) : b.toNat ≤ 255 := Nat.le_of_lt_succ b.isLt

/-- Weighted luminance is exact: a mean of bytes is within a byte (R322, R332). -/
theorem lumWeightedOf_toNat (w : LumWeights) (c : Rgba) : (lumWeightedOf w c).toNat =
    (w.r * c.r.toNat + w.g * c.g.toNat + w.b * c.b.toNat) / (w.r + w.g + w.b) := by
  refine byteQuotient_toNat ?_
  calc w.r * c.r.toNat + w.g * c.g.toNat + w.b * c.b.toNat
      ≤ w.r * 255 + w.g * 255 + w.b * 255 := by
        gcongr <;> exact byte_le _
    _ = 255 * (w.r + w.g + w.b) := by ring

/-- Unweighted luminance is exact too (R322). -/
theorem lumUnweightedOf_toNat (c : Rgba) :
    (lumUnweightedOf c).toNat = (c.r.toNat + c.g.toNat + c.b.toNat) / 3 := by
  have hr := byte_le c.r
  have hg := byte_le c.g
  have hb := byte_le c.b
  exact byteQuotient_toNat (by omega)

/-- The luminance by the selected method (R322). -/
theorem lum_toNat (s : State) (c : Rgba) : (lum s c).toNat =
    if s.P.dac.lumMethod then (c.r.toNat + c.g.toNat + c.b.toNat) / 3
    else (s.par.lumW.r * c.r.toNat + s.par.lumW.g * c.g.toNat + s.par.lumW.b * c.b.toNat) /
      (s.par.lumW.r + s.par.lumW.g + s.par.lumW.b) := by
  unfold lum
  split_ifs
  · exact lumUnweightedOf_toNat c
  · exact lumWeightedOf_toNat s.par.lumW c

/-- A luminance operation answers on a colour (R322, log 4). -/
theorem returnLum_some {f : State → Rgba → Byte} {s : State} {c : Rgba} (h : s.pipe.rgba = some c) :
    returnLum f s = { s with result := .byte (f s c) } := by
  have run : returnLum f s = s.setResult (.byte (f s c)) := by rw [returnLum, h]
  exact run

/-- With no colour it does nothing (log 4). -/
theorem returnLum_none {f : State → Rgba → Byte} {s : State} (h : s.pipe.rgba = none) : returnLum f s = s := by
  rw [returnLum, h]

/-- Settles O55: each operation answers its quotient, which is exact. -/
theorem luminance : Obligations.Luminance := by
  unfold Obligations.Luminance
  intro s c h
  exact ⟨⟨_, congrArg Host.Outcome.next (returnLum_some h), lumWeightedOf_toNat s.par.lumW c⟩,
    ⟨_, congrArg Host.Outcome.next (returnLum_some h), lumUnweightedOf_toNat c⟩⟩

/-! ### The other colour stages -/

/-- A 6-bit component widened (R318). -/
theorem expand8_six_toNat (v : Byte) : (expand8 .six v).toNat = v.toNat % 64 * 4 + v.toNat % 64 / 16 := by
  rw [expand8, widen6_toNat, lowBits_toNat]
  rfl

/-- A tinted channel is exact: the tint's share of the luminance is within a byte (R323). -/
theorem tintedChannel_toNat (t l : Byte) : (BitVec.ofNat 8 (t.toNat * l.toNat / 255)).toNat = t.toNat * l.toNat / 255 :=
  byteQuotient_toNat (Nat.mul_le_mul (byte_le t) (byte_le l))

/-- A colour stage on a colour (log 4). -/
theorem onColour_some {f : State → Rgba → Rgba} {s : State} {c : Rgba} (h : s.pipe.rgba = some c) :
    onColour f s = { s with pipe := { s.pipe with rgba := some (f s c) } } := by
  rw [onColour, h]
  rfl

/-- A colour stage with no colour does nothing (log 4). -/
theorem onColour_none {f : State → Rgba → Rgba} {s : State} (h : s.pipe.rgba = none) : onColour f s = s := by
  have same : s.pipe.rgba.map (f s) = s.pipe.rgba := by rw [h]; rfl
  rw [onColour, same]
  rfl

/-- The monochrome rows with the tint each of them puts on the luminance (R323). -/
theorem exec_monoTint {s : State} {x : Instr × Tint}
    (hx : x ∈ [(Instr.monoWhite, s.par.tintWhite), (.monoGreen, s.par.tintGreen), (.monoAmber, s.par.tintAmber)]) :
    ∃ f : State → Rgba → Rgba, exec x.1 s = .next (onColour f s) ∧ ∀ c, f s c = tinted x.2 (lum s c) c := by
  simp only [List.mem_cons, List.not_mem_nil, or_false] at hx
  rcases hx with rfl | rfl | rfl
  · exact ⟨(monoIn · .white), rfl, fun _ => rfl⟩
  · exact ⟨(monoIn · .green), rfl, fun _ => rfl⟩
  · exact ⟨(monoIn · .amber), rfl, fun _ => rfl⟩

/-- Every colour row with no colour in the stage register does nothing (log 4). -/
theorem exec_colourRow_none {s : State} (h : s.pipe.rgba = none) {i : Instr}
    (hi : i ∈ [Instr.dacLut, .monoColour, .monoWhite, .monoGreen, .monoAmber, .lumWeighted, .lumUnweighted, .dacLevel,
      .dacOff]) : exec i s = .next s := by
  have colour {f : State → Rgba → Rgba} (hf : exec i s = .next (onColour f s)) : exec i s = .next s := by
    rw [hf, onColour_none h]
  have lumi {f : State → Rgba → Byte} (hf : exec i s = .next (returnLum f s)) : exec i s = .next s := by
    rw [hf, returnLum_none h]
  simp only [List.mem_cons, List.not_mem_nil, or_false] at hi
  rcases hi with rfl | rfl | rfl | rfl | rfl | rfl | rfl | rfl | rfl
  · exact colour (f := lutColour) rfl
  · exact colour (f := (monoIn · .colour)) rfl
  · exact colour (f := (monoIn · .white)) rfl
  · exact colour (f := (monoIn · .green)) rfl
  · exact colour (f := (monoIn · .amber)) rfl
  · exact lumi (f := fun s => lumWeightedOf s.par.lumW) rfl
  · exact lumi (f := fun _ => lumUnweightedOf) rfl
  · exact colour (f := level) rfl
  · exact colour (f := fun _ _ => black) rfl

/-- Settles O54: the arithmetic of the widening and of the luminance, and each row as its stage on the colour. -/
theorem colourStages : Obligations.ColourStages := by
  unfold Obligations.ColourStages
  refine ⟨fun v => ⟨expand8_six_toNat v, rfl⟩, lum_toNat, fun s => ⟨fun c h => ?_, fun h i => exec_colourRow_none h⟩⟩
  refine ⟨congrArg Host.Outcome.next (onColour_some h), congrArg Host.Outcome.next (onColour_id fun _ => rfl),
    fun x hx => ?_, congrArg Host.Outcome.next (onColour_some h), congrArg Host.Outcome.next (onColour_some h)⟩
  obtain ⟨f, hexec, htint⟩ := exec_monoTint hx
  refine ⟨tinted x.2 (lum s c) c, ?_, rfl, tintedChannel_toNat x.2.r _, tintedChannel_toNat x.2.g _,
    tintedChannel_toNat x.2.b _⟩
  rw [hexec, onColour_some h, htint]

end Sys2Proof.Machine
end

section
/-! PROOF. The output row and the CRTC addresses under every operation (R30, R342). -/

namespace Sys2Proof.Machine

namespace CountersInStep

variable {s t : State}

/-- It is a property of the parameters and the runtime registers. -/
theorem congr (hs : CountersInStep s) (hpar : t.par = s.par) (hS : t.S = s.S) : CountersInStep t := by
  simpa only [CountersInStep, hpar, hS] using hs

/-- Whatever leaves the position alone keeps it, as long as a cell address it loads lies within `MEMADDR_BITS`. -/
theorem of_samePosition (hs : CountersInStep s) (hpar : t.par = s.par) (hpos : SamePosition s.S t.S)
    (hcell : t.S.cellAddr = s.S.cellAddr ∨ t.S.cellAddr < 2 ^ s.par.memaddrBits) : CountersInStep t := by
  obtain ⟨hrow, hmem, hlat, hold⟩ := hs
  obtain ⟨-, hy, -, -, -, -, -, -, -, -, -, -, hmem', -, -, hlat', -, -, houtY, -⟩ := hpos
  refine ⟨by rw [houtY, hy, hrow], by rwa [hmem', hpar], by rwa [hlat', hpar], ?_⟩
  rw [hpar]
  obtain hcell | hcell := hcell
  · rwa [hcell]
  · exact hcell

/-- The stages of an active tick load the cell address from a reduced sum (R243). -/
theorem of_stage (hs : CountersInStep s) (h : StageStep s t) : CountersInStep t :=
  hs.of_samePosition h.runtimeOnly.par h.samePosition h.2

/-- Stage registers hold no counter. -/
theorem setPipe (hs : CountersInStep s) (p : Pipe) : CountersInStep (s.setPipe p) := hs

/-! ### The rows of a tick -/

/-- One evaluation of the signal touches latches, flag and frame counter only (R203, R204). -/
theorem evaluate (hs : CountersInStep s) : CountersInStep (evaluate s) := by
  rw [evaluate_eq]
  exact hs

/-- The horizontal total steps both row counters together, and the memory address it leaves is the old one or reduced
(R205). -/
theorem hTotal (hs : CountersInStep s) : CountersInStep (hTotal s) := by
  obtain ⟨hrow, hmem, hlat, hcell⟩ := hs
  have hpar : (Machine.hTotal s).par = s.par := (hTotal_runtimeOnly s).par
  refine ⟨by rw [hTotal_outY, hTotal_y, hrow], ?_, by rwa [hpar, hTotal_latStart], by rwa [hpar, hTotal_cellAddr]⟩
  rw [hpar]
  obtain hold | hnew := hTotal_memaddr s
  · rwa [hold]
  · exact hnew

/-- The vertical total clears both row counters and loads reduced addresses (R207). -/
theorem vTotal (hs : CountersInStep s) : CountersInStep (vTotal s) := by
  obtain ⟨-, -, -, hcell⟩ := hs
  exact ⟨rfl, wrapAddr_lt _ _, wrapAddr_lt _ _, hcell⟩

/-- Whichever total handlers a word selects (R201, R215). -/
theorem runTotals (hs : CountersInStep s) (sig : SigWord) : CountersInStep (runTotals sig s) := by
  obtain ⟨-, -, e⟩ | ⟨-, -, e⟩ | ⟨-, -, e⟩ | ⟨-, -, e⟩ := runTotals_cases sig s <;> rw [e]
  · exact hs
  · exact hs.hTotal
  · exact hs.vTotal
  · exact hs.hTotal.vTotal

/-- A dispatched row steps the output column only and may load the cell address (R210, R340). -/
theorem dispatch (hs : CountersInStep s) {ta ra : Bool} {sig : SigWord} (h : dispatch ta ra sig s = .ok t) :
    CountersInStep t :=
  hs.of_samePosition (dispatch_runtimeOnly h).par (dispatch_samePosition h) (dispatch_cellAddr h)

/-- One output steps the output column only (R340). -/
theorem frameOutput (hs : CountersInStep s) (c : Rgba) : CountersInStep (frameOutput c s) := by
  rw [frameOutput_eq]
  exact hs

/-- The active-display row is what a word with both active bits dispatches (R113). -/
theorem activeDisplay (hs : CountersInStep s) (h : activeDisplay s = .ok t) : CountersInStep t :=
  hs.dispatch (ta := false) (ra := false) (sig := 0x2020) h

/-- A tick is its signal loop, at most one row, and the step of the column (R201). -/
theorem tick (hs : CountersInStep s) (h : tick s = .ok t) : CountersInStep t := by
  obtain ⟨u, hu, rfl⟩ := tick_cases h
  have hloop : CountersInStep (signalLoop Config.retryBound s).2.2 :=
    signalLoop_keeps (p := CountersInStep) (fun _ => evaluate) (fun sig _ h => h.runTotals sig) (fun _ h => h) _ s hs
  have hrow : CountersInStep u := hloop.dispatch hu
  exact hrow

/-- ADVANCE is tick after tick (R147). -/
theorem ticks (n : Nat) (hs : CountersInStep s) (h : ticks n s = .ok t) : CountersInStep t := by
  induction n generalizing s with
  | zero =>
    cases h
    exact hs
  | succ n ih =>
    obtain ⟨u, hu, h⟩ := ticks_succ.1 h
    exact ih (hs.tick hu) h

/-! ### The stages issued alone -/

/-- A decode variant counts the unit and stages (R242, log 4). -/
theorem decodeVariant (hs : CountersInStep s) {r : Res (AttrInfo × State)}
    (hr : ∀ u, r = .ok u → StageStep (countUnit s) u.2)
    (h : outcome (do
      let u ← r
      pure (putUnit u)) = .next t) : CountersInStep t := by
  obtain ⟨u, hu, h⟩ := bind_ok (outcome_eq_next.1 h)
  cases h
  have hcount : CountersInStep (countUnit s) := hs
  exact (hcount.of_stage (hr u hu)).setPipe _

/-- An ATTR variant stages the decoded unit, if there is one (log 4). -/
theorem onUnit (hs : CountersInStep s) {f : AttrInfo → State → Res (Option AttrValue × State)}
    (hf : ∀ ai r, f ai s = .ok r → StageStep s r.2) (h : onUnit f s = .next t) : CountersInStep t := by
  unfold Machine.onUnit at h
  split at h
  · cases h
    exact hs
  · obtain ⟨r, hr, h⟩ := bind_ok (outcome_eq_next.1 h)
    cases h
    exact (hs.of_stage (hf _ _ hr)).setPipe _

/-- A depth variant latches the value's bytes, if there is one (R311). -/
theorem runDepth (hs : CountersInStep s) (mode : DacMode) : CountersInStep (runDepth mode s) := by
  unfold Machine.runDepth
  cases s.pipe.val with
  | none => exact hs.setPipe _
  | some v => exact (hs.of_stage (dacLatchIn_stage mode v s)).setPipe _

/-! ### The operations -/

/-- Register writes and RECALC clear the three part-filled latches at most (R182). -/
theorem of_latchesOnly (hs : CountersInStep s) (hpar : t.par = s.par) (h : LatchesOnly s.S t.S) : CountersInStep t := by
  unfold CountersInStep
  rw [h, hpar]
  exact hs

/-- RESET zeroes the runtime registers and keeps the width (R380). -/
theorem resetDevice (s : State) : CountersInStep (resetDevice s) :=
  ⟨rfl, Nat.two_pow_pos _, Nat.two_pow_pos _, Nat.two_pow_pos _⟩

/-- Every operation keeps it: one that does not own the runtime registers leaves them alone, one that recomputes
clears latches, and the rest are the rows of a tick, PENPOS and WAITVBL. -/
theorem exec (hs : CountersInStep s) (i : Instr) (h : exec i s = .next t) : CountersInStep t := by
  obtain ⟨⟨hpar, -⟩, -⟩ := exec_groupsKept i s t h
  by_cases hi : writesRuntime i = false
  · obtain ⟨hruntime, -⟩ := exec_ownersOnly i s t h
    exact hs.congr hpar (hruntime hi)
  cases i
  case reset => cases h; exact resetDevice s
  case wrreg | recalc | dacmask | dacridx | dacwidx | dacwdata =>
    exact hs.of_latchesOnly hpar (exec_latchesOnly (by rfl) (by nofun) h)
  case waitvbl =>
    unfold CountersInStep
    rw [exec_waitvbl_S h, hpar]
    exact hs
  case penpos | blankHs | blankHe | blankVs | blankVe | retrHs | retrHe | retrVe | divFull | divHalf | divQuarter =>
    cases h
    exact hs
  case retrVs =>
    cases h
    unfold vRetraceStart
    split_ifs <;> exact hs
  case advance => exact hs.ticks _ (outcome_eq_next.1 h)
  case tick => exact hs.tick (outcome_eq_next.1 h)
  case htotal => cases h; exact hs.hTotal
  case vtotal => cases h; exact hs.vTotal
  case rActive => exact hs.activeDisplay (outcome_eq_next.1 h)
  case rOverscanH | rOverscanV => cases h; exact hs.frameOutput _
  case outPixel =>
    simp only [Machine.exec, execOutPixel] at h
    cases h
    split
    · exact hs
    · exact hs.frameOutput _
  case decText => exact hs.decodeVariant (fun _ => decodeText_stage) h
  case decPlanar | decPacked | decShift256 => exact hs.decodeVariant (fun _ => decodeGraphics_stage) h
  case attr8 => exact hs.onUnit (fun _ _ => attr8Of_stage) h
  case attr16 =>
    refine hs.onUnit (f := fun ai s => .ok (attr16Of ai s)) (fun ai r hr => ?_) h
    cases hr
    exact attr16Of_stage ai s
  case dac8 | dac15 | dac16 | dac24 | dac32 => cases h; exact hs.runDepth _
  all_goals exact absurd rfl hi

end CountersInStep

/-- Settles O58: a step changes nothing, or takes a turn, which writes no runtime register, and runs at most one
operation. -/
theorem stepKeepsCounters : Obligations.StepKeepsCounters := by
  unfold Obligations.StepKeepsCounters
  intro s t hs h
  have hturn (a : Nat) (rest : List Request) : CountersInStep (s.takeTurn a rest) := hs
  obtain rfl | ⟨a, rest, rfl | ⟨i, hi⟩⟩ := step_cases h
  · exact hs
  · exact hturn a rest
  · exact (hturn a rest).exec i hi

end Sys2Proof.Machine
end

section
/-! PROOF. The state RESET leaves, from any state: zero stores, `P` derived from the zero register file, and the
invariants that every step keeps (R140, R380). -/

namespace Sys2Proof.Machine

/-- RESET as one update: everything it does not name keeps its value (R140, R380). -/
theorem exec_reset (s : State) : exec .reset s = .next { s with
    reg := [], P := Precalc.reset, htab := none, vtab := none, S := Runtime.reset, pal := []
    dacs := ⟨0, 0, 0, 0⟩, pipe := Pipe.empty } := rfl

/-- The zero register file derives to the values R50 gives after RESET. -/
theorem derive_empty : derive [] = Precalc.reset := by decide

/-- Those values are 0 but for the character width, the character height and the cursor enable (R50). -/
theorem precalcReset_eq_default : Precalc.reset = { (default : Precalc) with
    clk := ⟨false, .eight, 0, false⟩
    crtc := { (default : Geometry) with charHeight := 1, cursorEnable := true } } := rfl

/-- An empty register file reads 0 at every index (R40). -/
theorem regAt_empty (sec idx : Byte) : regAt [] sec idx = 0 := rfl

/-- An empty palette reads 0 at every component (R57). -/
theorem palAt_empty (i : Byte) (comp : Nat) : palAt [] i comp = 0 := rfl

/-- Settles O8: RESET is that one update, and an empty store, or a table never built, reads 0 everywhere. -/
theorem resetPutsResetState : Obligations.ResetPutsResetState := by
  unfold Obligations.ResetPutsResetState
  exact ⟨exec_reset State.reset, fun s => ⟨_, exec_reset s, regAt_empty, derive_empty.symm, precalcReset_eq_default,
    htabAt_none rfl, vtabAt_none rfl, rfl, palAt_empty, rfl, rfl⟩⟩

/-- Zero registers hold no bit outside their masks, and nothing at an index that names none (R142). -/
theorem RegistersMasked.of_zero {s : State} (h : ∀ sec idx, regAt s.reg sec idx = 0) : RegistersMasked s := by
  intro sec idx
  rw [h]
  split
  · exact BitVec.zero_and
  · rfl

/-- Settles O59: zero stores and counters lie within every mask and width, `P` is derived and the tables were never
built. -/
theorem resetMeetsInvariants : Obligations.ResetMeetsInvariants := by
  unfold Obligations.ResetMeetsInvariants
  have hcanonical : Canonical State.reset := ⟨rfl, rfl, rfl⟩
  have hpalette : PaletteInWidth State.reset := ⟨fun _ => BitVec.zero_and, counter_zero, counter_zero⟩
  have hprecalc : PrecalcCurrent State.reset := derive_empty.symm
  have htables : TablesCurrent State.reset := .inl ⟨rfl, rfl⟩
  exact ⟨hcanonical, .of_zero regAt_empty, hpalette, hprecalc, htables, CountersInStep.resetDevice State.reset, rfl⟩

end Sys2Proof.Machine
end

section
/-! PROOF. The idle machine: ticks while neither timing table was built (R382). -/

namespace Sys2Proof.Machine

section Idle

variable {s : State}

/-- A position of two tables that were never built has no total bit (R56, R382). -/
theorem totalHere_idle (hh : s.htab = none) (hv : s.vtab = none) : totalHere s = false := by
  simp [totalHere, htabAt_none hh, vtabAt_none hv]

/-- Without boundary bits an evaluation leaves latches, flag, frame counter and events alone (R203, R204). -/
theorem resolved_idle (hh : s.htab = none) (hv : s.vtab = none) : resolved s = s := by
  simp [resolved, htabAt_none hh, vtabAt_none hv]

/-- Such a position selects no render row but R.NOP, retracing or not (R113, R213). -/
theorem renderRow_idle (hh : s.htab = none) (hv : s.vtab = none) : renderRow s = .rNop := by
  simp [renderRow, htabAt_none hh, vtabAt_none hv]

/-- So a tick steps the column and does nothing else; no selector is looked at (R52, R214, R382). -/
theorem tick_idle (hh : s.htab = none) (hv : s.vtab = none) : tick s = .ok (advanceColumn s) := by
  refine tick_stop (signalLoop_stop _ (totalHere_idle hh hv)) ?_
  rw [resolved_idle hh hv, renderRow_idle hh hv]
  rfl

/-- Any number of such ticks: a tick keeps the tables as they are, so the next one is of the same kind (R147, R382). -/
theorem ticks_idle (n : Nat) (hh : s.htab = none) (hv : s.vtab = none) :
    ticks n s = .ok (s.setS { s.S with x := s.S.x + BitVec.ofNat 15 n }) := by
  induction n generalizing s with
  | zero =>
    rw [BitVec.add_zero]
    rfl
  | succ n ih =>
    have hcolumn : s.S.x + 1 + BitVec.ofNat 15 n = s.S.x + BitVec.ofNat 15 (n + 1) := by
      rw [BitVec.add_assoc, BitVec.add_comm 1, BitVec.ofNat_add]
      rfl
    refine ticks_succ.2 ⟨advanceColumn s, tick_idle hh hv, ?_⟩
    rw [ih (s := advanceColumn s) hh hv, ← hcolumn]
    rfl

end Idle

/-- Settles O9: ADVANCE is that many idle ticks. -/
theorem idleWhileTablesZero : Obligations.IdleWhileTablesZero := by
  unfold Obligations.IdleWhileTablesZero
  intro s n hh hv
  refine outcome_eq_next.2 ?_
  rw [ticks_idle n.toNat hh hv, BitVec.ofNat_toNat]
  rfl

end Sys2Proof.Machine
end
